-- ==== Sys2Proof/Word.lean ====
section
/-! DEFINITION. The widths the spec fixes (00_scope.md R7, R11): bytes, the 16-bit register address, the 12-bit
command word, the 13-bit response word and the 64-bit tick. Times are plain naturals, of
nanoseconds (R14). -/

namespace Sys2Proof

/-- One byte of the register file (R11: a byte is 8 bits). -/
abbrev Byte := BitVec 8

/-- The register address pointer (R7 `AP_BITS`, R23). -/
abbrev Addr := BitVec 16

/-- The command word of an event (R92). -/
abbrev Cmd := BitVec 12

/-- The response word of a format B event (R94). -/
abbrev RespWord := BitVec 13

/-- The packed clock value (R7 `TICK_BITS`, R152). -/
abbrev Tick := BitVec 64

end Sys2Proof
end

