-- ==== Sys2Proof/Machine/Constants.lean ====
section
/-! DEFINITION. The constants the source fixes (00_scope.md R7). -/

namespace Sys2Proof.Machine

/-- `NS_PER_SEC` -/
def nsPerSec : Nat := 1000000000

/-- `TICK_HZ` -/
def tickHz : Nat := 32768

/-- `SUB_BITS` -/
def subBits : Nat := 15

/-- `CLK_LEN`, the length of the live-clock window. -/
def clkLen : Nat := 7

/-- `ID_FILL`, the all-ones sentinel. -/
def idFill : Byte := 0xFF#8

/-- `OOR_READ`, what an out-of-range read returns. -/
def oorRead : Byte := 0x00#8

end Sys2Proof.Machine
end

