-- ==== Sys2Proof/Config.lean ====
section
/-! DEFINITION. The configuration record `cfg` (00_scope.md R8), its policy switches (R10), and the reference
configuration REF (R17). The model carries a `Config` in its state as a constant element (log 1), so that a claim
over every state is a claim over every configuration. -/

namespace Sys2Proof

/-- What the snapshot field holds after RESET (R10 `P_RESET_SCRATCH`, R36). -/
inductive ScratchPolicy where
  | zero      -- cleared with the rest
  | snapshot  -- the creation snapshot rewritten
  deriving DecidableEq, Repr

/-- `sub_ticks` as a configuration function (42_tick_clock.md R151; D11, U14), held as plain data (log 28). -/
inductive SubTicks where
  /-- the definition R151 gives: the exact ratio 1 000 000 000 / 32768 ns -/
  | exact
  /-- a platform whose count rises within each second at these nanoseconds of the second, one step for each entry -/
  | steps (starts : List Nat)
  /-- a platform with any other function, known by a number: `Config.platformSubTicks` -/
  | platform (k : Nat)
  deriving DecidableEq, Repr

/-- The sub-second function of platform `k`, an uninterpreted value in 0..32767 for each elapsed time (R150, R151;
log 28). -/
opaque Config.platformSubTicks : Nat → Nat → BitVec 15

/-- The configuration record of R8 with the policy switches of R10. Addresses and lengths are naturals. -/
structure Config where
  /-- `REG_SIZE` -/
  regSize : Nat
  /-- `ID_BASE` -/
  idBase : Nat
  /-- `ID_LEN` -/
  idLen : Nat
  /-- `MASK_ADDR` -/
  maskAddr : Nat
  /-- `EVENT_ADDR` -/
  eventAddr : Nat
  /-- `IRQ_LEN` -/
  irqLen : Nat
  /-- `ALARM_EVT_OFF` -/
  alarmEvtOff : Nat
  /-- `ALARM_EVT_MASK` -/
  alarmEvtMask : Byte
  /-- `CTRL_ADDR` -/
  ctrlAddr : Nat
  /-- `CTRL_MONITOR_MASK`: storage only, read by no rule (R33, D24) -/
  ctrlMonitorMask : Byte
  /-- `CTRL_ALARM_EN_MASK` -/
  ctrlAlarmEnMask : Byte
  /-- `CLK_ADDR` -/
  clkAddr : Nat
  /-- `ALARM_ADDR` -/
  alarmAddr : Nat
  /-- `ALARM_LEN` -/
  alarmLen : Nat
  /-- `ALARM_ARITH_BITS` -/
  alarmArithBits : Nat
  /-- `SCRATCH_BASE` -/
  scratchBase : Nat
  /-- `SCRATCH_LEN` -/
  scratchLen : Nat
  /-- `SNAP_ADDR` -/
  snapAddr : Nat
  /-- `SNAP_LEN` -/
  snapLen : Nat
  /-- `BUS_ADDR`: held for the host, read by no rule (R231) -/
  busAddr : Nat
  /-- `P_IRQ_REEVAL_ON_WRITE` -/
  irqReevalOnWrite : Bool
  /-- `P_RESET_DISARMS_ALARM` -/
  resetDisarmsAlarm : Bool
  /-- `P_RESET_REEVAL_IRQ` -/
  resetReevalIrq : Bool
  /-- `P_RESET_SCRATCH` -/
  resetScratch : ScratchPolicy
  /-- `sub_ticks` (R151) -/
  subTicks : SubTicks
  deriving DecidableEq, Repr

/-- REF: the right-hand column of R8 with the decided switch values of R10 (R17) and R151's definition of `sub_ticks`. The spec's own invention; no real
chip's map. -/
def Config.ref : Config :=
  { regSize := 0x1000
    idBase := 0x0010, idLen := 2
    maskAddr := 0x0020, eventAddr := 0x0030, irqLen := 2
    alarmEvtOff := 1, alarmEvtMask := 0x04#8
    ctrlAddr := 0x0100, ctrlMonitorMask := 0x01#8, ctrlAlarmEnMask := 0x40#8
    clkAddr := 0x0110
    alarmAddr := 0x0120, alarmLen := 6, alarmArithBits := 64
    scratchBase := 0x0800, scratchLen := 0x100
    snapAddr := 0x0810, snapLen := 8
    busAddr := 0x74
    irqReevalOnWrite := true, resetDisarmsAlarm := true, resetReevalIrq := true
    resetScratch := .zero
    subTicks := .exact }

end Sys2Proof
end

