-- ==== Sys2Proof/Syntax.lean ====
section
/-! DEFINITION. The ten events the device accepts, one constructor per row of spec/opcode_table.json (30_encoding.md
R91), and their two formats. -/

namespace Sys2Proof

/-- The events of R91. `now`, and for CREATE the snapshot and `cfg`, are side-band inputs (R92) and stand in the state. -/
inductive Instr where
  /-- `SR`, Start-Read (R110) -/
  | sr
  /-- `SW`, Start-Write (R111) -/
  | sw
  /-- `SWA`, Start-Write-Async (R112) -/
  | swa
  /-- `FIN`, Finish (R113) -/
  | fin
  /-- `NAK`, Abort/Nack (R114) -/
  | nak
  /-- `RX`, byte-out request (R130) -/
  | rx
  /-- `TX d`, byte-in delivery (R132). The delivered value is a natural, because that it lies in 0..255 is an
  obligation of the host (R15 HO4) and not of the type. -/
  | tx (d : Nat)
  /-- `RESET` (R232) -/
  | reset
  /-- `EXPIRE`, the deferred callback fires (R175) -/
  | expire
  /-- `CREATE` (R230) -/
  | create
  deriving DecidableEq, Repr

/-- Format B events come from the bus controller and return a response; format H events come from the host and return
nothing (R91). -/
inductive Format where
  | bus
  | host
  deriving DecidableEq, Repr

/-- The format column of R91. -/
def Instr.format : Instr → Format
  | .sr | .sw | .swa | .fin | .nak | .rx | .tx _ => .bus
  | .reset | .expire | .create => .host

end Sys2Proof
end

