-- ==== Sys2Proof/Machine/State.lean ====
section
/-! DEFINITION. The machine's state (10_state.md R20 to R40), the outputs of a step (30_encoding.md R94, R95, R102),
the inputs still to be delivered, the reasons a step is refused (00_scope.md R15, R16), and the state after reset
(R38). Everything is plain data. -/

namespace Sys2Proof.Machine

/-- Which transaction is open (R22). -/
inductive Op where
  | none
  | reading
  | writing
  deriving DecidableEq, Repr

/-- How much of the two-byte address has arrived (R24). -/
inductive Phase where
  | awaitingHighByte
  | awaitingLowByte
  | addressComplete
  deriving DecidableEq, Repr

/-- The nine rejection causes, in the order of their codes 1 to 9 (60_exceptions.md R201). -/
inductive Cause where
  | startReadBusy
  | startWriteBusy
  | asyncUnsupported
  | nack
  | rxNotReading
  | rxNoAddress
  | rxOutOfRange
  | txNotWriting
  | txOutOfRange
  deriving DecidableEq, Repr

/-- The response to a format B event (R94): OK with a byte (0x00 for every event but `RX`), or REJECT with a cause. -/
inductive Response where
  | ok (byte : Byte)
  | rej (cause : Cause)
  deriving DecidableEq, Repr

/-- One record of the diagnostic channel. -/
inductive DiagRecord where
  /-- a rejection, with the values at the time of the event (R95, R202) -/
  | rejection (cause : Cause) (ap : Addr) (op : Op) (phase : Phase)
  /-- a register-file primitive was given an address at or above `REG_SIZE` (R61, R62); log 8 -/
  | outOfRange (addr : Nat)
  deriving DecidableEq, Repr

/-- A notification to the host clock service (R102). -/
inductive TimerNote where
  | arm (deadline : Nat)
  | cancel
  deriving DecidableEq, Repr

/-- One input of the device: the command word, the host clock value, and the two side-band inputs that CREATE alone
reads (R92, R102). -/
structure Event where
  cmd : Cmd
  now : Nat
  snapshot : List Byte
  cfg : Config
  deriving DecidableEq, Repr

/-- The register file, sparse: the bytes that are not 0x00, by address (log 7). -/
abbrev Memory := List Host.Cell

/-- The canonical form: addresses strictly rising, and no listed byte equal to 0x00, which is what an unlisted address
reads as. -/
abbrev Memory.wf (m : Memory) : Prop :=
  m.Pairwise (fun c d => c.1 < d.1) ∧ ∀ c ∈ m, c.2 ≠ 0x00#8

/-- The state of one device instance (R20), the constants of the instance (R40), and the model's own fields for the
inputs, the outputs and the host obligations. -/
structure State where
  /-- `x[]`, the register file (R21) -/
  file : Memory
  /-- `op` (R22) -/
  op : Op
  /-- `ap` (R23) -/
  ap : Addr
  /-- `phase` (R24) -/
  phase : Phase
  /-- `rtc_offset` (R25) -/
  rtcOffset : Nat
  /-- `alarm_deadline` (R27) -/
  alarmDeadline : Option Nat
  /-- `irq` (R28) -/
  irq : Bool
  /-- `cfg`, constant after CREATE (R8, R40; log 1) -/
  cfg : Config
  /-- the creation snapshot bytes, kept for RESET (R40) -/
  snapshot : List Byte
  /-- MODEL: CREATE has happened (HO2; log 4) -/
  created : Bool
  /-- MODEL: `now` of the event in hand, or of the last one (R14, HO1) -/
  now : Nat
  /-- MODEL: the snapshot argument of the event in hand, read by CREATE only (R92) -/
  argSnapshot : List Byte
  /-- MODEL: the `cfg` argument of the event in hand, read by CREATE only (R92) -/
  argCfg : Config
  /-- MODEL: the events still to be delivered, the next first (log 2) -/
  events : List Event
  /-- MODEL, output: the response of the last step (R94), none after a format H event -/
  resp : Option Response
  /-- MODEL, output: the diagnostic stream so far, oldest first (R95) -/
  diag : List DiagRecord
  /-- MODEL, output: the timer notification of the last step (R102; log 9) -/
  timer : Option TimerNote
  deriving DecidableEq, Repr

/-- The device never faults (00_scope.md R16: "The device therefore has no fault state, no stuck state and no halt"):
there is no fault reason, nobody raises one, and that is safe. -/
inductive Fault where
  deriving DecidableEq, Repr

/-- Why the model gives an input no step (R16). None is a behaviour of the device; each is safe, since a claim says
nothing of a run that holds one. -/
inductive Refusal where
  /-- an instruction whose meaning is not written yet; raised by no arm of this model; safe -/
  | notModelled (mnemonic : String)
  /-- a reserved command word (R97), raised by fetch; safe -/
  | reservedWord (cmd : Cmd)
  /-- no event is waiting, so there is no step (R6; log 3), raised by fetch; safe -/
  | noEvent
  /-- HO1: the host clock stepped back (U6), raised by fetch; safe -/
  | clockBackwards
  /-- HO1: the host clock is below `rtc_offset` (U6), raised by every event but CREATE; safe -/
  | clockBelowOffset
  /-- HO2: an event before CREATE (U7), raised by every event but CREATE; safe -/
  | beforeCreate
  /-- HO2: a second CREATE on one instance (U7), raised by CREATE; safe -/
  | secondCreate
  /-- CREATE with a configuration that is not well formed (R9, U3; log 16), raised by CREATE; safe -/
  | illFormedConfig
  /-- CREATE with a snapshot that is not `SNAP_LEN` bytes long (R92; log 16), raised by CREATE; safe -/
  | snapshotLength
  /-- HO3: EXPIRE with no alarm pending (R175, U7), raised by EXPIRE; safe -/
  | noAlarmPending
  /-- HO3: EXPIRE before the deadline (R175, U7), raised by EXPIRE; safe -/
  | beforeDeadline
  /-- HO4: a delivered value above 255 (U7), raised by TX; safe -/
  | dataAbove255
  deriving DecidableEq, Repr

/-- The machine right after reset: the column "after RESET" of R38 under REF (R17), created at clock value 0 with a zero
snapshot, and no event waiting (log 1, 3, 6). -/
def State.reset : State :=
  { file := [(0x0010, 0xFF#8), (0x0011, 0xFF#8)]
    op := .none
    ap := 0#16
    phase := .awaitingHighByte
    rtcOffset := 0
    alarmDeadline := none
    irq := false
    cfg := Config.ref
    snapshot := [0#8, 0#8, 0#8, 0#8, 0#8, 0#8, 0#8, 0#8]
    created := true
    now := 0
    argSnapshot := [0#8, 0#8, 0#8, 0#8, 0#8, 0#8, 0#8, 0#8]
    argCfg := Config.ref
    events := []
    resp := none
    diag := []
    timer := none }

end Sys2Proof.Machine
end

