-- ==== Sys2Proof/Machine/Ops.lean ====
section
/-! DEFINITION. The named operations over the register file (20_memory.md R60 to R64), the ways a handler ends
(00_scope.md R12; 60_exceptions.md R202, R203), the guard of the host obligations (R15), and the writes of the alarm
deadline. -/

namespace Sys2Proof.Machine

/-- What one event answers. -/
abbrev Result := Host.Outcome State Fault Refusal

/-! ## The raw storage `x[i]` (R12): no bounds check -/

/-- `x[a]`; an unlisted address reads 0x00 (R21, R37; log 7). -/
def Memory.read : Memory → Nat → Byte
  | [], _ => 0x00#8
  | (b, w) :: m, a => if a = b then w else Memory.read m a

/-- `x[a] <- v`, keeping the canonical form: writing 0x00 removes the entry. -/
def Memory.write : Memory → Nat → Byte → Memory
  | [], a, v => if v = 0x00#8 then [] else [(a, v)]
  | (b, w) :: m, a, v =>
    if a < b then (if v = 0x00#8 then (b, w) :: m else (a, v) :: (b, w) :: m)
    else if a = b then (if v = 0x00#8 then m else (a, v) :: m)
    else (b, w) :: Memory.write m a v

/-- `x[a + k] <- bs[k]` for every `k` below the length of `bs`, in rising order. -/
def Memory.writeBytes : Memory → Nat → List Byte → Memory
  | m, _, [] => m
  | m, a, b :: bs => Memory.writeBytes (m.write a b) (a + 1) bs

/-- Every byte of `[lo, hi)` becomes 0x00. -/
def Memory.clear (m : Memory) (lo hi : Nat) : Memory := m.filter fun c => !(decide (lo ≤ c.1) && decide (c.1 < hi))

/-- `LE(a, n)` (R11): the little-endian value of `n` register-file bytes from `a`. -/
def Memory.le (m : Memory) (a : Nat) : Nat → Nat
  | 0 => 0
  | n + 1 => (m.read a).toNat + 256 * Memory.le m (a + 1) n

/-! ## The bounds-checked Register File operations (R61 to R64) -/

/-- The report of an out-of-range access by a primitive (R61, R62; log 8). -/
def State.reportOutOfRange (s : State) (a : Nat) : State := { s with diag := s.diag ++ [.outOfRange a] }

/-- `MemRead(addr, 1)` (R61): the byte, and the state with the report of an out-of-range address. -/
def State.memRead (s : State) (a : Nat) : Byte × State :=
  if s.cfg.regSize ≤ a then (oorRead, s.reportOutOfRange a) else (s.file.read a, s)

/-- `MemWrite(addr, 1, v)` (R62). -/
def State.memWrite (s : State) (a : Nat) (v : Byte) : State :=
  if s.cfg.regSize ≤ a then s.reportOutOfRange a else { s with file := s.file.write a v }

/-- `fill([lo, lo + n), v)` (R64): `MemWrite` byte by byte, in rising order. -/
def State.fill (s : State) (lo : Nat) : Nat → Byte → State
  | 0, _ => s
  | n + 1, v => (s.memWrite lo v).fill (lo + 1) n v

/-- `clear([lo, lo + n))` (R63) in closed form: the bytes of the range below `REG_SIZE` become 0x00, each address of the
range at or above it is reported (log 15). -/
def State.clear (s : State) (lo n : Nat) : State :=
  { s with
    file := s.file.clear lo (min (lo + n) s.cfg.regSize)
    diag := s.diag ++ (List.range' (max lo s.cfg.regSize) (lo + n - max lo s.cfg.regSize)).map .outOfRange }

/-- The snapshot rewrite of RESET (R64): `MemWrite` byte by byte. -/
def State.memWriteBytes (s : State) (a : Nat) : List Byte → State
  | [] => s
  | b :: bs => (s.memWrite a b).memWriteBytes (a + 1) bs

/-! ## The alarm deadline and its notifications (R27, R102; log 9) -/

/-- Drop any pending callback. -/
def State.disarm (s : State) : State :=
  { s with
    alarmDeadline := none
    timer := if s.alarmDeadline.isSome then some .cancel else s.timer }

/-- Arm the one-shot callback at `d`, dropping any pending one. -/
def State.arm (s : State) (d : Nat) : State := { s with alarmDeadline := some d, timer := some (.arm d) }

/-- The callback has fired: the timer is spent (R175). The host's own act, so nothing is notified. -/
def State.spend (s : State) : State := { s with alarmDeadline := none }

/-! ## How a handler begins and ends -/

/-- The outputs of the step before are gone. -/
def State.clearOutputs (s : State) : State := { s with resp := none, timer := none }

/-- What every event but CREATE owes (R15): HO2, it comes after CREATE; HO1, the clock is not below `rtc_offset`. -/
def State.admitted (s : State) (handler : State → Result) : Result :=
  if s.created = false then .refused .beforeCreate
  else if s.now < s.rtcOffset then .refused .clockBelowOffset
  else handler s.clearOutputs

/-- `return OK(byte)` (R12, R94). -/
def State.ok (s : State) (b : Byte) : Result := .next { s with resp := some (.ok b) }

/-- The end of a format H event, which returns nothing (R91). -/
def State.silent (s : State) : Result := .next s

/-- `raise Reject(cause)` (R12), the device's one form of exception: the response and one diagnostic record, and
nothing else (60_exceptions.md R202, R203). There is no return from it (R208). -/
def State.reject (s : State) (c : Cause) : Result :=
  .next { s with resp := some (.rej c), diag := s.diag ++ [.rejection c s.ap s.op s.phase] }

end Sys2Proof.Machine
end

