-- ==== Sys2Proof/Machine/Clock.lean ====
section
/-! DEFINITION. The tick clock (42_tick_clock.md R150 to R155). -/

namespace Sys2Proof.Machine

/-- `sub_ticks(e)` (R151): the whole 1/32768-second periods within the current second, by the exact ratio (D11). -/
def subTicks (e : Nat) : Nat := (e * tickHz / nsPerSec) % tickHz

/-- `sub_ticks` of a configuration (R151): its own definition, or the platform's replacement, in 0..32767. -/
def subTicksOf : SubTicks → Nat → Nat
  | .exact, e => subTicks e
  | .steps starts, e => (starts.countP fun t => decide (t ≤ e % nsPerSec)) % tickHz
  | .platform k, e => (Config.platformSubTicks k e).toNat

/-- `tick` of R150 for an elapsed time `e`, over a replaceable sub-second function (R151; log 10). -/
def tickWith (sub : Nat → Nat) (e : Nat) : Tick := BitVec.ofNat 64 (((e / nsPerSec) <<< subBits) ||| sub e)

/-- The tick of an elapsed time, with R151's sub-second function. -/
def tickOf (e : Nat) : Tick := tickWith subTicks e

/-- `current_tick(now)` (R150) with the configuration's `sub_ticks`: a pure function of `now - rtc_offset`. -/
def State.currentTick (s : State) : Tick := tickWith (subTicksOf s.cfg.subTicks) (s.now - s.rtcOffset)

/-- `current_tick(now) >> 15`, the coarse seconds (R152, R171). -/
def State.coarseSecs (s : State) : Nat := (s.currentTick >>> subBits).toNat

/-- `W` of R154: the tick shifted left by one, in 56 bits. -/
def clockWord (t : Tick) : BitVec 56 := (t <<< 1).setWidth 56

/-- `pack7(tick)` (R154): byte `k` is bits `8k+7:8k` of `W`. -/
def pack7 (t : Tick) : List Byte := (List.range clkLen).map fun k => (clockWord t).extractLsb' (8 * k) 8

/-- MATERIALIZE_CLOCK (R155): all seven window bytes, and nothing else. -/
def State.materialize (s : State) : State :=
  { s with file := s.file.writeBytes s.cfg.clkAddr (pack7 s.currentTick) }

end Sys2Proof.Machine
end

