-- ==== Sys2Proof/Machine/Flags.lean ====
section
/-! DEFINITION. The interrupt line, the device's one computed flag (44_interrupt_line.md R190). -/

namespace Sys2Proof.Machine

/-- `hit` of R190: some enabled event bit is set, the two registers being paired byte by byte. -/
def irqLevel (c : Config) (m : Memory) : Bool :=
  (List.range c.irqLen).any fun i => decide (m.read (c.maskAddr + i) &&& m.read (c.eventAddr + i) ≠ 0x00#8)

/-- IRQ_REEVAL (R190): recomputed, never toggled. -/
def State.irqReeval (s : State) : State := { s with irq := irqLevel s.cfg s.file }

end Sys2Proof.Machine
end

