-- ==== Sys2Proof/Machine/Alarm.lean ====
section
/-! DEFINITION. The alarm scheduler's internal operations (43_alarm_scheduler.md R170 to R173). -/

namespace Sys2Proof.Machine

/-- The raw alarm field, `LE(ALARM_ADDR, ALARM_LEN)` (R171; 90_conflicts.md C3). -/
def State.alarmTarget (s : State) : Nat := s.file.le s.cfg.alarmAddr s.cfg.alarmLen

/-- `target_seconds(now)` (R171): the difference with the coarse seconds, wrapped at `ALARM_ARITH_BITS` bits. -/
def State.targetSeconds (s : State) : Nat :=
  (((s.alarmTarget : Int) - (s.coarseSecs : Int)) % ((2 ^ s.cfg.alarmArithBits : Nat) : Int)).toNat

/-- The alarm-enable bit of the control register is 1 (R33). -/
def State.alarmEnabled (s : State) : Bool :=
  decide (s.file.read s.cfg.ctrlAddr &&& s.cfg.ctrlAlarmEnMask ≠ 0x00#8)

/-- The event-register byte that holds the alarm-event bit (R32, R173). -/
def alarmEventAddr (c : Config) : Nat := c.eventAddr + c.alarmEvtOff

/-- ALARM_FIRE (R173): OR the alarm-event bit in, then IRQ_REEVAL. -/
def State.alarmFire (s : State) : State :=
  ({ s with
     file := s.file.write (alarmEventAddr s.cfg) (s.file.read (alarmEventAddr s.cfg) ||| s.cfg.alarmEvtMask) }).irqReeval

/-- ALARM_REEVAL (R170). -/
def State.alarmReeval (s : State) : State :=
  if s.alarmEnabled = false then s.disarm
  else if s.targetSeconds = 0 then s.disarm.alarmFire
  else s.arm (s.now + s.targetSeconds * nsPerSec)

end Sys2Proof.Machine
end

