-- ==== Sys2Proof/WellFormed.lean ====
section
/-! DEFINITION. Well-formedness: of an event (00_scope.md R15 HO4) and of a configuration (R9). -/

namespace Sys2Proof

/-- HO4: BYTE_IN carries a value in 0..255. The other events have no operand. -/
def Instr.wellFormed : Instr → Bool
  | .tx d => decide (d < 256)
  | _ => true

/-- Exactly one bit of the mask is set (R8). -/
def oneBit (m : Byte) : Bool :=
  [0x01#8, 0x02#8, 0x04#8, 0x08#8, 0x10#8, 0x20#8, 0x40#8, 0x80#8].contains m

/-- R8, row `REG_SIZE`. -/
def Config.sizeOk (c : Config) : Bool := decide (1 ≤ c.regSize) && decide (c.regSize ≤ 65536)

/-- R8, row `ID_LEN`. -/
def Config.idOk (c : Config) : Bool := decide (2 ≤ c.idLen)

/-- R8, rows `IRQ_LEN`, `ALARM_EVT_OFF`, `ALARM_EVT_MASK`. -/
def Config.irqOk (c : Config) : Bool :=
  decide (1 ≤ c.irqLen) && decide (c.alarmEvtOff < c.irqLen) && oneBit c.alarmEvtMask

/-- R8, rows `CTRL_MONITOR_MASK`, `CTRL_ALARM_EN_MASK`. -/
def Config.ctrlOk (c : Config) : Bool :=
  oneBit c.ctrlMonitorMask && oneBit c.ctrlAlarmEnMask && decide (c.ctrlAlarmEnMask ≠ c.ctrlMonitorMask)

/-- R8, rows `ALARM_LEN`, `ALARM_ARITH_BITS`. -/
def Config.alarmOk (c : Config) : Bool :=
  (decide (c.alarmLen = 6) || decide (c.alarmLen = 7)) &&
    (decide (1 ≤ c.alarmArithBits) && decide (c.alarmArithBits ≤ 64))

/-- R8, rows `SCRATCH_LEN`, `SNAP_LEN`: the snapshot field lies inside the scratch block. -/
def Config.scratchOk (c : Config) : Bool :=
  decide (1 ≤ c.snapLen) && decide (c.snapLen ≤ c.scratchLen) &&
    (decide (c.scratchBase ≤ c.snapAddr) && decide (c.snapAddr + c.snapLen ≤ c.scratchBase + c.scratchLen))

/-- The seven named fields as (first address, length), in the order R9 (3) lists them. -/
def Config.fields (c : Config) : List (Nat × Nat) :=
  [(c.idBase, c.idLen), (c.maskAddr, c.irqLen), (c.eventAddr, c.irqLen), (c.ctrlAddr, 1),
   (c.alarmAddr, c.alarmLen), (c.clkAddr, Machine.clkLen), (c.scratchBase, c.scratchLen)]

/-- R9 (2): every named field lies wholly below `REG_SIZE`. -/
def Config.fieldsInFile (c : Config) : Bool := c.fields.all fun f => decide (f.1 + f.2 ≤ c.regSize)

/-- The ranges share no address. -/
abbrev disjointRanges (f g : Nat × Nat) : Prop := f.1 + f.2 ≤ g.1 ∨ g.1 + g.2 ≤ f.1

/-- R9 (3): the seven named fields are pairwise disjoint. -/
def Config.fieldsDisjoint (c : Config) : Bool := decide (c.fields.Pairwise disjointRanges)

/-- R151: a step list of a replaced `sub_ticks` has no more than the 32767 steps that keep its count below 32768
(log 28). -/
def Config.clockOk (c : Config) : Bool :=
  match c.subTicks with
  | .exact => true
  | .steps starts => decide (starts.length < Machine.tickHz)
  | .platform _ => true

/-- A well-formed configuration (R9, and `clockOk`). -/
def Config.wellFormed (c : Config) : Bool :=
  c.sizeOk && c.idOk && c.irqOk && c.ctrlOk && c.alarmOk && c.scratchOk && c.fieldsInFile && c.fieldsDisjoint && c.clockOk

end Sys2Proof
end

