-- ==== Sys2Proof/Machine/HostEvents.lean ====
section
/-! DEFINITION. The three host events: `RESET` and `CREATE` (70_reset_and_hazards.md R230, R232) and `EXPIRE`
(43_alarm_scheduler.md R175). -/

namespace Sys2Proof.Machine

/-- The transaction state `{NONE, 0, AWAITING_HIGH_BYTE}` (R232). -/
def State.idleBus (s : State) : State := { s with op := .none, ap := 0#16, phase := .awaitingHighByte }

/-- What RESET leaves in the register file (R232): zero, the sentinel over the identity/trim range, and by
`P_RESET_SCRATCH` the creation snapshot. -/
def State.resetFile (s : State) : State :=
  let s := (s.clear 0 s.cfg.regSize).fill s.cfg.idBase s.cfg.idLen idFill
  if s.cfg.resetScratch = .snapshot then s.memWriteBytes s.cfg.snapAddr s.snapshot else s

/-- RESET's effect on the pending alarm (R232; D16). -/
def State.resetAlarm (s : State) : State := if s.cfg.resetDisarmsAlarm then s.disarm else s

/-- RESET's effect on the interrupt line (R232; D17). -/
def State.resetIrq (s : State) : State := if s.cfg.resetReevalIrq then s.irqReeval else s

/-- `RESET` (R232). `rtc_offset` is kept. -/
def execReset (s : State) : Result := s.admitted fun s => s.idleBus.resetFile.resetAlarm.resetIrq.silent

/-- `EXPIRE` (R175): enabled only with an alarm pending and `now` at or after its deadline (HO3). -/
def execExpire (s : State) : Result :=
  s.admitted fun s =>
    match s.alarmDeadline with
    | none => .refused .noAlarmPending
    | some d => if s.now < d then .refused .beforeDeadline else s.spend.alarmFire.silent

/-- The constructor of the state (R230): it reads the arguments of the event, `now` and the waiting events, and no
earlier state. The diagnostic stream of the new instance is empty (log 8). -/
def State.createdFrom (s : State) : State :=
  { file := Memory.writeBytes [] s.argCfg.snapAddr s.argSnapshot
    op := .none
    ap := 0#16
    phase := .awaitingHighByte
    rtcOffset := s.now
    alarmDeadline := none
    irq := false
    cfg := s.argCfg
    snapshot := s.argSnapshot
    created := true
    now := s.now
    argSnapshot := s.argSnapshot
    argCfg := s.argCfg
    events := s.events
    resp := none
    diag := []
    timer := none }

/-- `CREATE` (R230). A second one breaks HO2; a configuration that is not well formed (R9, U3) or a snapshot that is not
`SNAP_LEN` bytes (R92) is no CREATE the rules speak of (log 16). -/
def execCreate (s : State) : Result :=
  if s.created then .refused .secondCreate
  else if s.argCfg.wellFormed = false then .refused .illFormedConfig
  else if s.argSnapshot.length ≠ s.argCfg.snapLen then .refused .snapshotLength
  else s.createdFrom.silent

end Sys2Proof.Machine
end

