-- ==== Sys2Proof/Machine/Lifecycle.lean ====
section
/-! DEFINITION. The five transaction lifecycle events (40_transaction_events.md R110 to R114). -/

namespace Sys2Proof.Machine

/-- `SR` (R110). `ap` and `phase` are kept (90_conflicts.md C1). -/
def execSr (s : State) : Result :=
  s.admitted fun s => if s.op ≠ .none then s.reject .startReadBusy else State.ok { s with op := .reading } 0x00#8

/-- `SW` (R111). -/
def execSw (s : State) : Result :=
  s.admitted fun s =>
    if s.op ≠ .none then s.reject .startWriteBusy
    else State.ok { s with op := .writing, ap := 0#16, phase := .awaitingHighByte } 0x00#8

/-- `SWA` (R112): rejected in every state. -/
def execSwa (s : State) : Result := s.admitted fun s => s.reject .asyncUnsupported

/-- `FIN` (R113): writes `op` only (90_conflicts.md C1). -/
def execFin (s : State) : Result := s.admitted fun s => State.ok { s with op := .none } 0x00#8

/-- `NAK` (R114): rejected in every state; the transaction stays open. -/
def execNak (s : State) : Result := s.admitted fun s => s.reject .nack

end Sys2Proof.Machine
end

