-- ==== Sys2Proof/Machine/Operands.lean ====
section
/-! DEFINITION. The operand of the two byte events: the register address in `ap`, its assembly from two bytes, its
post-increment, its bounds, and the named fields it may lie in (10_state.md R23; 20_memory.md R60, R66, R70;
30_encoding.md R99). -/

namespace Sys2Proof.Machine

/-- `{ d, ap[7:0] }` (R133). -/
def withHighByte (ap : Addr) (d : Byte) : Addr := d ++ ap.extractLsb' 0 8

/-- `{ ap[15:8], d }` (R134). -/
def withLowByte (ap : Addr) (d : Byte) : Addr := ap.extractLsb' 8 8 ++ d

/-- `(ap + 1) mod 65536` (R23). -/
def nextAddr (ap : Addr) : Addr := ap + 1#16

/-- `base <= a < base + len`. -/
def inRange (base len a : Nat) : Bool := decide (base ≤ a) && decide (a < base + len)

/-- In bounds: `ap < REG_SIZE` (R60). -/
def State.apInBounds (s : State) : Bool := decide (s.ap.toNat < s.cfg.regSize)

/-- The address is in the live-clock window (R35, R130). -/
def inClockWindow (c : Config) (a : Nat) : Bool := inRange c.clkAddr clkLen a

/-- A data write at the address triggers ALARM_REEVAL (R135, R174): the control register or the alarm-target field. -/
def touchesAlarm (c : Config) (a : Nat) : Bool := decide (a = c.ctrlAddr) || inRange c.alarmAddr c.alarmLen a

/-- A data write at the address triggers IRQ_REEVAL (R135, R191): the mask or the event register, with the switch on. -/
def touchesIrq (c : Config) (a : Nat) : Bool :=
  c.irqReevalOnWrite && (inRange c.maskAddr c.irqLen a || inRange c.eventAddr c.irqLen a)

/-- The delivered value is a byte (HO4 of R15). -/
def deliveredByte (d : Nat) : Option Byte := if d < 256 then some (BitVec.ofNat 8 d) else none

end Sys2Proof.Machine
end

