-- ==== Sys2Proof/Machine/Transfer.lean ====
section
/-! DEFINITION. The two byte transfer primitives (41_byte_transfer.md R130 to R136). -/

namespace Sys2Proof.Machine

/-- The pre-read hook of `RX` (R130, R155): a read in the live-clock window finds it freshly materialised. -/
def State.preRead (s : State) : State := if inClockWindow s.cfg s.ap.toNat then s.materialize else s

/-- The performing part of `RX` (R130): read at `ap`, then advance `ap`. -/
def State.readByte (s : State) : Result :=
  let r := s.preRead.memRead s.ap.toNat
  State.ok { r.2 with ap := nextAddr s.ap } r.1

/-- `RX` (R130), the checks in the order of R206. -/
def execRx (s : State) : Result :=
  s.admitted fun s =>
    if s.op ≠ .reading then s.reject .rxNotReading
    else if s.phase ≠ .addressComplete then s.reject .rxNoAddress
    else if s.apInBounds = false then s.reject .rxOutOfRange
    else s.readByte

/-- `TX d` as the address high byte (R133); `op` is not tested (90_conflicts.md C2). -/
def State.takeHighByte (s : State) (d : Byte) : Result :=
  State.ok { s with ap := withHighByte s.ap d, phase := .awaitingLowByte } 0x00#8

/-- `TX d` as the address low byte (R134); `op` is not tested (90_conflicts.md C2). -/
def State.takeLowByte (s : State) (d : Byte) : Result :=
  State.ok { s with ap := withLowByte s.ap d, phase := .addressComplete } 0x00#8

/-- The side effects of a data byte stored at `a` (R135, R70), in the order R136 (g) gives. -/
def State.afterStore (s : State) (a : Nat) : State :=
  let s := if touchesAlarm s.cfg a then s.alarmReeval else s
  if touchesIrq s.cfg a then s.irqReeval else s

/-- The performing part of a data byte (R135): store at `ap`, advance `ap`, then the side effects of the address. -/
def State.storeByte (s : State) (d : Byte) : Result :=
  State.ok (State.afterStore { s.memWrite s.ap.toNat d with ap := nextAddr s.ap } s.ap.toNat) 0x00#8

/-- `TX d` as a data byte (R135), the checks in the order of R206. -/
def State.takeData (s : State) (d : Byte) : Result :=
  if s.op ≠ .writing then s.reject .txNotWriting
  else if s.apInBounds = false then s.reject .txOutOfRange
  else s.storeByte d

/-- `TX d` (R132): `phase` decides how the byte is used. A value above 255 breaks HO4 and has no step. -/
def execTx (d : Nat) (s : State) : Result :=
  s.admitted fun s =>
    match deliveredByte d with
    | none => .refused .dataAbove255
    | some b =>
      match s.phase with
      | .awaitingHighByte => s.takeHighByte b
      | .awaitingLowByte => s.takeLowByte b
      | .addressComplete => s.takeData b

end Sys2Proof.Machine
end

