-- ==== Sys2Proof/Machine/Dispatch.lean ====
section
/-! DEFINITION. One arm per event (30_encoding.md R91). -/

namespace Sys2Proof.Machine

def exec (i : Instr) (s : State) : Host.Outcome State Fault Refusal :=
  match i with
  | .sr => Sys2Proof.Machine.execSr s
  | .sw => Sys2Proof.Machine.execSw s
  | .swa => Sys2Proof.Machine.execSwa s
  | .fin => Sys2Proof.Machine.execFin s
  | .nak => Sys2Proof.Machine.execNak s
  | .rx => Sys2Proof.Machine.execRx s
  | .tx d => Sys2Proof.Machine.execTx d s
  | .reset => Sys2Proof.Machine.execReset s
  | .expire => Sys2Proof.Machine.execExpire s
  | .create => Sys2Proof.Machine.execCreate s

end Sys2Proof.Machine
end

