-- ==== Sys2Proof/Decode.lean ====
section
/-! DEFINITION. The decoder of command words (30_encoding.md R92, R93), total on 12-bit words and rejecting the
reserved ones by name (R97), and the encoder written from the same table (R91). -/

namespace Sys2Proof

/-- Why a command word is reserved (R97). -/
inductive Reserved where
  /-- opcode 0x7 or 0xB to 0xF -/
  | opcode (opc : BitVec 4)
  /-- a nonzero data field on an event that has none -/
  | data (opc : BitVec 4) (data : Byte)
  deriving DecidableEq, Repr

/-- What a command word decodes to. -/
inductive Decoded where
  | event (i : Instr)
  | reserved (why : Reserved)
  deriving DecidableEq, Repr

/-- `opc`, bits 11:8 of the command word (R92). -/
def cmdOpc (w : Cmd) : BitVec 4 := w.extractLsb' 8 4

/-- `data`, bits 7:0 of the command word (R92). -/
def cmdData (w : Cmd) : Byte := w.extractLsb' 0 8

/-- The opcode column of R91 for the events without a data field. -/
def plainEvent (opc : BitVec 4) : Option Instr :=
  match opc.toNat with
  | 0x0 => some .sr
  | 0x1 => some .sw
  | 0x2 => some .swa
  | 0x3 => some .fin
  | 0x4 => some .nak
  | 0x5 => some .rx
  | 0x8 => some .reset
  | 0x9 => some .expire
  | 0xA => some .create
  | _ => none

/-- R93. -/
def decode (w : Cmd) : Decoded :=
  if cmdOpc w = 0x6#4 then .event (.tx (cmdData w).toNat)
  else
    match plainEvent (cmdOpc w) with
    | none => .reserved (.opcode (cmdOpc w))
    | some i => if cmdData w = 0x00#8 then .event i else .reserved (.data (cmdOpc w) (cmdData w))

/-- The opcode column of R91. -/
def opcodeOf : Instr → BitVec 4
  | .sr => 0x0#4
  | .sw => 0x1#4
  | .swa => 0x2#4
  | .fin => 0x3#4
  | .nak => 0x4#4
  | .rx => 0x5#4
  | .tx _ => 0x6#4
  | .reset => 0x8#4
  | .expire => 0x9#4
  | .create => 0xA#4

/-- The data field of R91: the delivered byte for `TX`, zero for every other event. -/
def dataOf : Instr → Byte
  | .tx d => BitVec.ofNat 8 d
  | _ => 0x00#8

/-- The command word of an event (R92): `opc` above `data`. -/
def encode (i : Instr) : Cmd := opcodeOf i ++ dataOf i

/-- The instruction the decoder reads from a table word. A command word has 12 bits and one length (R92, R98): a number
with a bit above bit 11 is no command word, and `nbits`, the table's width in whole bytes, adds only zero bits. -/
def decodeTableWord (_nbits w : Nat) : Option Instr :=
  if w < 4096 then
    match decode (BitVec.ofNat 12 w) with
    | .event i => some i
    | .reserved _ => none
  else none

end Sys2Proof
end

