-- ==== Sys2Proof/Machine/Fetch.lean ====
section
/-! DEFINITION. How the next event reaches its handler (00_scope.md R6, R13, R14; 30_encoding.md R92, R97): the event at
the head of `events` is taken, its side-band inputs are put where the handlers read them, and its word is decoded. -/

namespace Sys2Proof.Machine

/-- The event is taken from the waiting list and its side-band inputs are sampled, `now` once for the whole step (R14). -/
def State.accept (s : State) (e : Event) (rest : List Event) : State :=
  { s with now := e.now, argSnapshot := e.snapshot, argCfg := e.cfg, events := rest }

/-- HO1 between steps: the clock of an instance does not step back. Before CREATE there is no earlier step. -/
def State.clockSteppedBack (s : State) (e : Event) : Bool := s.created && decide (e.now < s.now)

/-- The next event's instruction and the state its handler starts from, or why the input has no step. -/
def State.fetch (s : State) : Except Refusal (Instr × State) :=
  match s.events with
  | [] => .error .noEvent
  | e :: rest =>
    if s.clockSteppedBack e then .error .clockBackwards
    else
      match decode e.cmd with
      | .reserved _ => .error (.reservedWord e.cmd)
      | .event i => .ok (i, s.accept e rest)

/-- The event that carries a bare command word: at the clock value of the last step, with the instance's own snapshot and
configuration as CREATE arguments. -/
def State.wordEvent (s : State) (w : Nat) : Event :=
  { cmd := BitVec.ofNat 12 w, now := s.now, snapshot := s.snapshot, cfg := s.cfg }

/-- A command word is put first in the waiting list. A number with a bit above bit 11 is no command word (R92), and then
nothing waits. -/
def State.deliverWord (s : State) (w : Nat) : State :=
  if w < 4096 then { s with events := s.wordEvent w :: s.events } else { s with events := [] }

end Sys2Proof.Machine
end

