-- ==== Sys2Proof/Machine/Step.lean ====
section
/-! DEFINITION. One step of the device: the whole handling of one event (00_scope.md R6). -/

namespace Sys2Proof.Machine

/-- One step (R6, R13, R16): the next event is taken and handled; an input the model gives no step is refused. -/
def step (s : State) : Host.Outcome State Fault Refusal :=
  match s.fetch with
  | .error r => .refused r
  | .ok (i, t) => exec i t

/-- The state in which the next step takes exactly the command word `w` (log 3). -/
def State.withFetchWord (s : State) (_nbits w : Nat) : State := s.deliverWord w

end Sys2Proof.Machine
end

