-- ==== Sys2Proof/Machine/Response.lean ====
section
/-! DEFINITION. The cause codes (60_exceptions.md R201) and the 13-bit response word (30_encoding.md R94). -/

namespace Sys2Proof.Machine

/-- The code of a cause (R201). -/
def Cause.code : Cause → Nat
  | .startReadBusy => 1
  | .startWriteBusy => 2
  | .asyncUnsupported => 3
  | .nack => 4
  | .rxNotReading => 5
  | .rxNoAddress => 6
  | .rxOutOfRange => 7
  | .txNotWriting => 8
  | .txOutOfRange => 9

/-- `status`, bit 12 (R94). -/
def Response.status : Response → BitVec 1
  | .ok _ => 0#1
  | .rej _ => 1#1

/-- `cause`, bits 11:8 (R94). -/
def Response.causeField : Response → BitVec 4
  | .ok _ => 0#4
  | .rej c => BitVec.ofNat 4 c.code

/-- `byte`, bits 7:0 (R94): 0x00 on every rejection (90_conflicts.md C11). -/
def Response.byteField : Response → Byte
  | .ok b => b
  | .rej _ => 0x00#8

/-- The response word (R94). -/
def Response.word (r : Response) : RespWord := r.status ++ (r.causeField ++ r.byteField)

end Sys2Proof.Machine
end

