-- ==== Sys2Proof/Machine/EventText.lean ====
section
/-! DEFINITION. Event programs: the textual lines of 30_encoding.md R100, read from characters, the event list a program
stands for, and the pseudo-operations of R101 with their expansions. The handlers do not use this file; it says which
event lists a text means (log 17). -/

namespace Sys2Proof.Machine

/-! ## The events of a program -/

/-- The event that carries `i` at the clock value `t`; the last two arguments matter to CREATE only (R92). -/
def eventAt (t : Nat) (i : Instr) (snapshot : List Byte) (c : Config) : Event :=
  { cmd := encode i, now := t, snapshot := snapshot, cfg := c }

/-- The pseudo-operations of R101; a list without a byte and a count of 0 are left in (DESIGN CHOICE, log 17). -/
inductive Pseudo where
  | setaddr (a : Addr)
  | write (a : Addr) (bytes : List Byte)
  | read (a : Addr) (n : Nat)
  | readnext (n : Nat)
  | wait (t : Nat)
  deriving DecidableEq, Repr

/-- `SW`; `TX a[15:8]`; `TX a[7:0]` (R101). -/
def addressPhase (a : Addr) : List Instr :=
  [.sw, .tx (a.extractLsb' 8 8).toNat, .tx (a.extractLsb' 0 8).toNat]

/-- `SETADDR a` (R101). -/
def setAddress (a : Addr) : List Instr := addressPhase a ++ [.fin]

/-- `READNEXT n` (R101; its value at `n = 0` is a DESIGN CHOICE, log 17). -/
def readNext (n : Nat) : List Instr := [.sr] ++ List.replicate n .rx ++ [.fin]

/-- The expansion column of R101; WAIT is no event. DESIGN CHOICE (log 17): R101 gives its table for `n ≥ 1` and says
nothing of `n = 0`; the model has no such check, and reads the same column with the `n` events left out: `WRITE a` without
a byte is `SETADDR a`, `READNEXT 0` is `SR`; `FIN`, and `READ a, 0` is `SETADDR a`; `SR`; `FIN`. -/
def expand : Pseudo → List Instr
  | .setaddr a => setAddress a
  | .write a bytes => addressPhase a ++ bytes.map (fun b => .tx b.toNat) ++ [.fin]
  | .read a n => setAddress a ++ readNext n
  | .readnext n => readNext n
  | .wait _ => []

/-- How much later the next line is (R101 `WAIT`). -/
def waitTime : Pseudo → Nat
  | .wait t => t
  | _ => 0

/-- The events of a list of pseudo-operations from the clock value `t` on. None of them is a CREATE, so the CREATE
arguments are never read. -/
def pseudoEvents (t : Nat) (c : Config) : List Pseudo → List Event
  | [] => []
  | p :: ps => (expand p).map (fun i => eventAt t i [] c) ++ pseudoEvents (t + waitTime p) c ps

/-! ## Lines (R100) -/

/-- `time` of R100. -/
inductive LineTime where
  | absolute (t : Nat)
  | later (t : Nat)
  deriving DecidableEq, Repr

/-- `expect` of R100. -/
inductive Expect where
  | ok (byte : Option Byte)
  | rej (code : Nat)
  deriving DecidableEq, Repr

/-- `line` of R100, its operand taken into the event (`TX`) or the snapshot (`CREATE`). -/
structure Line where
  time : Option LineTime
  event : Instr
  snapshot : List Byte
  expect : Option Expect
  deriving DecidableEq, Repr

/-- The clock value of a line, from that of the line before (R100). -/
def lineNow (before : Nat) : Option LineTime → Nat
  | none => before
  | some (.absolute t) => t
  | some (.later t) => before + t

/-- The events of a program; a line without a time has the clock value of the line before it (R100). -/
def assemble (c : Config) (before : Nat) : List Line → List Event
  | [] => []
  | l :: ls =>
    eventAt (lineNow before l.time) l.event l.snapshot c :: assemble c (lineNow before l.time) ls

/-- The response is the one the line expects (R100). DESIGN CHOICE (log 17): `-> OK` without a byte is met by an OK
response with any byte, also that of an `RX`, since R100 lets the byte be left out and does not say what is then
expected of it. -/
def expectMet (e : Option Expect) (r : Option Response) : Bool :=
  match e, r with
  | none, _ => true
  | some (.ok none), some (.ok _) => true
  | some (.ok (some b)), some (.ok b') => decide (b = b')
  | some (.rej n), some (.rej c) => decide (n = c.code)
  | some _, _ => false

/-! ## Reading a line from characters -/

/-- A decimal digit's value. -/
def digitValue (ch : Char) : Option Nat :=
  if '0' ≤ ch ∧ ch ≤ '9' then some (ch.toNat - 48) else none

/-- A hexadecimal digit's value. -/
def hexValue (ch : Char) : Option Nat :=
  if '0' ≤ ch ∧ ch ≤ '9' then some (ch.toNat - 48)
  else if 'a' ≤ ch ∧ ch ≤ 'f' then some (ch.toNat - 87)
  else if 'A' ≤ ch ∧ ch ≤ 'F' then some (ch.toNat - 55)
  else none

/-- Decimal digits after a prefix already read as `acc`. -/
def decimalFrom (acc : Nat) : List Char → Option Nat
  | [] => some acc
  | ch :: cs => (digitValue ch).bind fun v => decimalFrom (10 * acc + v) cs

/-- `decimal`: at least one digit. -/
def decimalOf : List Char → Option Nat
  | [] => none
  | cs => decimalFrom 0 cs

/-- `byte` of R100: `0xNN`, or decimal 0..255. -/
def byteOf : List Char → Option Byte
  | ['0', 'x', h, l] => (hexValue h).bind fun a => (hexValue l).map fun b => BitVec.ofNat 8 (16 * a + b)
  | cs => (decimalOf cs).bind fun n => if n < 256 then some (BitVec.ofNat 8 n) else none

/-- A finished word, kept if it is not empty; words are built in reverse. -/
def endWord (word : List Char) (rest : List (List Char)) : List (List Char) :=
  if word.isEmpty then rest else word.reverse :: rest

/-- The words of a line: separated by blanks, a comma a word of its own, a semicolon opening the comment. -/
def wordsFrom (word : List Char) : List Char → List (List Char)
  | [] => endWord word []
  | ch :: cs =>
    if ch = ';' then endWord word []
    else if ch = ' ' ∨ ch = '\t' then endWord word (wordsFrom [] cs)
    else if ch = ',' then endWord word ([','] :: wordsFrom [] cs)
    else wordsFrom (ch :: word) cs

/-- `[ time ]`, and the words after it. -/
def timeOf : List (List Char) → Option (Option LineTime × List (List Char))
  | ('@' :: '+' :: ds) :: ws => (decimalOf ds).map fun n => (some (.later n), ws)
  | ('@' :: ds) :: ws => (decimalOf ds).map fun n => (some (.absolute n), ws)
  | ws => some (none, ws)

/-- `{ "," byte }`, and the words after it. -/
def moreBytes : List (List Char) → List Byte × List (List Char)
  | [','] :: w :: ws =>
    match byteOf w with
    | some b => ((b :: (moreBytes ws).1), (moreBytes ws).2)
    | none => ([], [','] :: w :: ws)
  | ws => ([], ws)

/-- `byte { "," byte }`, and the words after it. -/
def bytesOf : List (List Char) → Option (List Byte × List (List Char))
  | w :: ws => (byteOf w).map fun b => ((b :: (moreBytes ws).1), (moreBytes ws).2)
  | [] => none

/-- `mnemonic [ operand ]`: the event, the snapshot operand, and the words after it. -/
def eventOf : List (List Char) → Option (Instr × List Byte × List (List Char))
  | ['S', 'R'] :: ws => some (.sr, [], ws)
  | ['S', 'W'] :: ws => some (.sw, [], ws)
  | ['S', 'W', 'A'] :: ws => some (.swa, [], ws)
  | ['F', 'I', 'N'] :: ws => some (.fin, [], ws)
  | ['N', 'A', 'K'] :: ws => some (.nak, [], ws)
  | ['R', 'X'] :: ws => some (.rx, [], ws)
  | ['T', 'X'] :: w :: ws => (byteOf w).map fun b => (.tx b.toNat, [], ws)
  | ['R', 'E', 'S', 'E', 'T'] :: ws => some (.reset, [], ws)
  | ['E', 'X', 'P', 'I', 'R', 'E'] :: ws => some (.expire, [], ws)
  | ['C', 'R', 'E', 'A', 'T', 'E'] :: ws => (bytesOf ws).map fun p => (.create, p.1, p.2)
  | _ => none

/-- `[ expect ]`, which ends the line; a format H event has none (R100). -/
def expectOf (f : Format) : List (List Char) → Option (Option Expect)
  | [] => some none
  | [['-', '>'], ['O', 'K']] => if f = .bus then some (some (.ok none)) else none
  | [['-', '>'], ['O', 'K'], w] => if f = .bus then (byteOf w).map fun b => some (.ok (some b)) else none
  | [['-', '>'], ['R', 'E', 'J'], w] => if f = .bus then (decimalOf w).map fun n => some (.rej n) else none
  | _ => none

/-- `line` of R100. -/
def lineOf (text : List Char) : Option Line :=
  (timeOf (wordsFrom [] text)).bind fun t =>
    (eventOf t.2).bind fun e =>
      (expectOf e.1.format e.2.2).map fun x => { time := t.1, event := e.1, snapshot := e.2.1, expect := x }

end Sys2Proof.Machine
end

