-- ==== Sys2Proof/Safety.lean ====
section
/-! DEFINITION. What the claims call a live instance and a good state: the host obligations an event meets
(00_scope.md R15) and the invariants of 10_state.md R39, with the canonical form of the register file. -/

namespace Sys2Proof.Machine

/-- The instance exists (HO2) and the clock is not below `rtc_offset` (HO1): what every event but CREATE needs. -/
abbrev State.Live (s : State) : Prop := s.created = true ∧ s.rtcOffset ≤ s.now

/-- `EXPIRE` is enabled (HO3, R175). -/
abbrev State.Due (s : State) : Prop := ∃ d, s.alarmDeadline = some d ∧ d ≤ s.now

/-- CREATE is a first CREATE with a well-formed configuration and a snapshot of `SNAP_LEN` bytes (HO2, R9, R92). -/
abbrev State.Creatable (s : State) : Prop :=
  s.created = false ∧ s.argCfg.wellFormed = true ∧ s.argSnapshot.length = s.argCfg.snapLen

/-- The state a rejection leaves: the response and one diagnostic record, and nothing else of the device changed
(60_exceptions.md R202, R203). -/
def State.rejected (s : State) (c : Cause) : State :=
  { s with resp := some (.rej c), timer := none, diag := s.diag ++ [.rejection c s.ap s.op s.phase] }

/-- The named property of R151: `sub_ticks` stays below 32768 and the tick is non-decreasing in the elapsed time, up to
the wrap at 2^49 seconds that R152 and R153 (b) name (log 28). -/
abbrev TickLawful (c : Config) : Prop :=
  (∀ e, subTicksOf c.subTicks e < 32768) ∧
    ∀ e e', e ≤ e' → e' < 2 ^ 49 * 1000000000 →
      (tickWith (subTicksOf c.subTicks) e).toNat ≤ (tickWith (subTicksOf c.subTicks) e').toNat

/-- Byte `k` of the live-clock window for a tick, as one arithmetic expression: byte `k` of twice the tick, in 56 bits
(42_tick_clock.md R154). -/
def windowByte (tick : Nat) (k : Nat) : Nat := 2 * tick % 2 ^ 56 / 2 ^ (8 * k) % 256

/-- Events handled one after another at one clock value. -/
def execAll : List Instr → State → Host.Outcome State Fault Refusal
  | [], s => .next s
  | i :: is, s =>
    match exec i s with
    | .next t => execAll is t
    | .fault r => .fault r
    | .refused r => .refused r

/-- INV1 of R39. -/
abbrev State.Inv1 (s : State) : Prop := s.phase = .awaitingHighByte → s.ap = 0#16

/-- INV2 of R39. -/
abbrev State.Inv2 (s : State) : Prop := s.phase = .awaitingLowByte → s.ap.toNat % 256 = 0

/-- INV3 of R39. -/
abbrev State.Inv3 (s : State) : Prop :=
  s.cfg.resetDisarmsAlarm = true → s.alarmDeadline ≠ none →
    s.file.read s.cfg.ctrlAddr &&& s.cfg.ctrlAlarmEnMask ≠ 0x00#8

/-- INV4 of R39. -/
abbrev State.Inv4 (s : State) : Prop :=
  s.cfg.irqReevalOnWrite = true → s.cfg.resetReevalIrq = true →
    (s.irq = true ↔
      ∃ i, i < s.cfg.irqLen ∧ s.file.read (s.cfg.maskAddr + i) &&& s.file.read (s.cfg.eventAddr + i) ≠ 0x00#8)

/-- INV5 of R39: the deadline lies a whole positive number of seconds after a clock value that the instance has seen. -/
abbrev State.Inv5 (s : State) : Prop :=
  ∀ d, s.alarmDeadline = some d →
    ∃ t k, s.rtcOffset ≤ t ∧ t ≤ s.now ∧ 1 ≤ k ∧ k < 2 ^ s.cfg.alarmArithBits ∧ d = t + k * nsPerSec

/-- The register file is canonical and lists nothing at or above `REG_SIZE` (R21). -/
abbrev State.FileOk (s : State) : Prop := s.file.wf ∧ ∀ c ∈ s.file, c.1 < s.cfg.regSize

/-- A good state of an instance: everything a run from CREATE keeps. -/
structure State.Good (s : State) : Prop where
  config : s.cfg.wellFormed = true
  snapshot : s.snapshot.length = s.cfg.snapLen
  clock : s.rtcOffset ≤ s.now
  file : s.FileOk
  inv1 : s.Inv1
  inv2 : s.Inv2
  inv3 : s.Inv3
  inv4 : s.Inv4
  inv5 : s.Inv5

/-- Once there is an instance, its state is good. -/
abbrev State.Inv (s : State) : Prop := s.created = true → s.Good

end Sys2Proof.Machine
end

