-- ==== Sys2Proof/Certificates/Slice0/Obligations.lean ====
section
/-! DEFINITION. The statements for the provers. OBLIGATIONS.json lists them with their rules. -/

open Sys2Proof Sys2Proof.Machine

/-! ## Encoding and fetch -/

/-- The command word of each of the ten events, written out from R91, and four reserved words. The codes are the spec's
decision D6 (log 26). -/
def Obligations.TableWordsDecode : Prop :=
  decode 0x000#12 = .event .sr ∧ decode 0x100#12 = .event .sw ∧ decode 0x200#12 = .event .swa ∧
  decode 0x300#12 = .event .fin ∧ decode 0x400#12 = .event .nak ∧ decode 0x500#12 = .event .rx ∧
  decode 0x65A#12 = .event (.tx 0x5A) ∧ decode 0x800#12 = .event .reset ∧ decode 0x900#12 = .event .expire ∧
  decode 0xA00#12 = .event .create ∧
  decode 0x700#12 = .reserved (.opcode 0x7#4) ∧ decode 0xF00#12 = .reserved (.opcode 0xF#4) ∧
  decode 0x5FF#12 = .reserved (.data 0x5#4 0xFF#8) ∧ decode 0xA01#12 = .reserved (.data 0xA#4 0x01#8)

/-- Decode and encode agree: every well-formed event, with every operand, is read back from its word. The word layout
is the spec's decision D6 (log 26). -/
def Obligations.EncodedEventDecodesToItself : Prop :=
  ∀ i : Instr, i.wellFormed = true → decode (encode i) = .event i

/-- The other direction: a word that decodes to an event is the encoding of that event, which is well formed. The word
layout is the spec's decision D6 (log 26). -/
def Obligations.DecodedWordIsItsEncoding : Prop :=
  ∀ (w : Cmd) (i : Instr), decode w = .event i → i.wellFormed = true ∧ encode i = w

/-- The reserved words are exactly those R97 names: opcodes 0x7 and 0xB to 0xF, and a nonzero data field on any opcode
but 0x6. Decision D6 (log 26). -/
def Obligations.ReservedWordsAreExactlyThese : Prop :=
  ∀ w : Cmd,
    (∃ why, decode w = .reserved why) ↔
      (w.toNat / 256 = 0x7 ∨ 0xB ≤ w.toNat / 256) ∨ (w.toNat / 256 ≠ 0x6 ∧ w.toNat % 256 ≠ 0)

/-- A step takes the next waiting event, samples its side-band inputs and runs the event its word decodes to. The list
of waiting events is the model's choice (log 2). -/
def Obligations.StepRunsTheDecodedEvent : Prop :=
  ∀ (s : State) (e : Event) (rest : List Event) (i : Instr),
    s.events = e :: rest → (s.created = true → s.now ≤ e.now) → decode e.cmd = .event i →
      step s = exec i { s with now := e.now, argSnapshot := e.snapshot, argCfg := e.cfg, events := rest }

/-- What a step refuses before any handler runs: no waiting event, a host clock that steps back on an instance, a
reserved word. The refusals are the model's (logs 3, 5). -/
def Obligations.StepRefusesInputsWithoutStep : Prop :=
  (∀ s : State, s.events = [] → step s = .refused .noEvent) ∧
  (∀ (s : State) (e : Event) (rest : List Event),
    s.events = e :: rest → s.created = true → e.now < s.now → step s = .refused .clockBackwards) ∧
  (∀ (s : State) (e : Event) (rest : List Event) (why : Reserved),
    s.events = e :: rest → (s.created = true → s.now ≤ e.now) → decode e.cmd = .reserved why →
      step s = .refused (.reservedWord e.cmd))

/-- A word placed where step takes its next event is run by the very next step. The model's choice (log 3). -/
def Obligations.PlacedWordRunsNext : Prop :=
  ∀ (s : State) (nbits w : Nat) (i : Instr), decodeTableWord nbits w = some i →
    step (s.withFetchWord nbits w) = exec i { s with argSnapshot := s.snapshot, argCfg := s.cfg }

/-- The events of an assembled program carry the words of its lines. The notation is the spec's decision D8 (log 17).
-/
def Obligations.AssembledProgramCarriesItsLines : Prop :=
  ∀ (c : Config) (t : Nat) (ls : List Line), (∀ l ∈ ls, l.event.wellFormed = true) →
    (assemble c t ls).map (fun e => decode e.cmd) = ls.map (fun l => .event l.event)

/-! ## Transaction lifecycle events

The states these statements give are written out whole: `resp` is the response (R94), `timer` the notification to the host
clock service, none here (log 9), and `State.rejected` adds one diagnostic record and changes nothing else (log 8). -/

/-- R110: the word, the format, and what `SR` does in every state of a live instance. -/
def Obligations.StartReadOpensOrIsRejected : Prop :=
  decode 0x000#12 = .event .sr ∧ Instr.sr.format = .bus ∧
  ∀ s : State, s.Live →
    (s.op = .none → exec .sr s = .next { s with op := .reading, resp := some (.ok 0x00#8), timer := none }) ∧
    (s.op ≠ .none → exec .sr s = .next (s.rejected .startReadBusy))

/-- R111: the word, the format, and what `SW` does in every state of a live instance. -/
def Obligations.StartWriteOpensOrIsRejected : Prop :=
  decode 0x100#12 = .event .sw ∧ Instr.sw.format = .bus ∧
  ∀ s : State, s.Live →
    (s.op = .none →
      exec .sw s =
        .next { s with
          op := .writing, ap := 0#16, phase := .awaitingHighByte, resp := some (.ok 0x00#8), timer := none }) ∧
    (s.op ≠ .none → exec .sw s = .next (s.rejected .startWriteBusy))

/-- R112: the word, the format, and the rejection of `SWA` in every state of a live instance. -/
def Obligations.StartWriteAsyncIsAlwaysRejected : Prop :=
  decode 0x200#12 = .event .swa ∧ Instr.swa.format = .bus ∧
  ∀ s : State, s.Live → exec .swa s = .next (s.rejected .asyncUnsupported)

/-- R113: the word, the format, and what `FIN` does in every state of a live instance. -/
def Obligations.FinishClosesInEveryState : Prop :=
  decode 0x300#12 = .event .fin ∧ Instr.fin.format = .bus ∧
  ∀ s : State, s.Live → exec .fin s = .next { s with op := .none, resp := some (.ok 0x00#8), timer := none }

/-- R114: the word, the format, and the rejection of `NAK` in every state of a live instance. -/
def Obligations.NackIsAlwaysRejected : Prop :=
  decode 0x400#12 = .event .nak ∧ Instr.nak.format = .bus ∧
  ∀ s : State, s.Live → exec .nak s = .next (s.rejected .nack)

/-! ## Byte transfer -/

/-- `RX` outside the live-clock window: the stored byte is returned, `ap` advances modulo 2^16, nothing else changes.
The output field `timer` is the model's (log 9). -/
def Obligations.ByteOutReturnsStoredByte : Prop :=
  ∀ s : State, s.Live → s.op = .reading → s.phase = .addressComplete → s.ap.toNat < s.cfg.regSize →
    ¬ (s.cfg.clkAddr ≤ s.ap.toNat ∧ s.ap.toNat < s.cfg.clkAddr + 7) →
      exec .rx s =
        .next { s with
          ap := BitVec.ofNat 16 (s.ap.toNat + 1), resp := some (.ok (s.file.read s.ap.toNat)), timer := none }

/-- `RX` inside the live-clock window: all seven window bytes become the packed current tick, the byte at `ap` is returned
from them, `ap` advances, and no other byte and nothing else changes. The tick is the one of the configuration's
`sub_ticks`; with R151's own definition it counts the 32768 Hz periods since creation. Decisions D11 and D12 of the spec
(logs 10, 11, 28); `timer` is the model's (log 9). -/
def Obligations.ByteOutInWindowReturnsClock : Prop :=
  ∀ s : State, s.Live → s.file.wf → s.op = .reading → s.phase = .addressComplete → s.ap.toNat < s.cfg.regSize →
    s.cfg.clkAddr ≤ s.ap.toNat → s.ap.toNat < s.cfg.clkAddr + 7 →
      ∃ m : Memory, ∃ b : Byte, ∃ tick : Nat,
        exec .rx s =
          .next { s with
            file := m, ap := BitVec.ofNat 16 (s.ap.toNat + 1), resp := some (.ok b), timer := none } ∧
        tick = ((s.now - s.rtcOffset) / 1000000000 * 32768 +
          subTicksOf s.cfg.subTicks (s.now - s.rtcOffset)) % 2 ^ 64 ∧
        (s.cfg.subTicks = .exact → tick = (s.now - s.rtcOffset) * 32768 / 1000000000 % 2 ^ 64) ∧
        b.toNat = windowByte tick (s.ap.toNat - s.cfg.clkAddr) ∧
        (∀ a, s.cfg.clkAddr ≤ a → a < s.cfg.clkAddr + 7 →
          (m.read a).toNat = windowByte tick (a - s.cfg.clkAddr)) ∧
        (∀ a, ¬ (s.cfg.clkAddr ≤ a ∧ a < s.cfg.clkAddr + 7) → m.read a = s.file.read a)

/-- The three rejections of `RX`, tested in the order `op`, `phase`, bounds. The order is the spec's decision D13 (log
24). -/
def Obligations.ByteOutRejections : Prop :=
  ∀ s : State, s.Live →
    (s.op ≠ .reading → exec .rx s = .next (s.rejected .rxNotReading)) ∧
    (s.op = .reading → s.phase ≠ .addressComplete → exec .rx s = .next (s.rejected .rxNoAddress)) ∧
    (s.op = .reading → s.phase = .addressComplete → s.cfg.regSize ≤ s.ap.toNat →
      exec .rx s = .next (s.rejected .rxOutOfRange))

/-- `TX d` in the two address phases, whatever `op` is: `d` becomes the high byte, then the low byte, of `ap`. That
`op` is not tested is the spec's decision D15 (log 23). -/
def Obligations.AddressBytesFillThePointer : Prop :=
  ∀ (s : State) (d : Nat), s.Live → d < 256 →
    (s.phase = .awaitingHighByte →
      exec (.tx d) s =
        .next { s with
          ap := BitVec.ofNat 16 (256 * d + s.ap.toNat % 256), phase := .awaitingLowByte
          resp := some (.ok 0x00#8), timer := none }) ∧
    (s.phase = .awaitingLowByte →
      exec (.tx d) s =
        .next { s with
          ap := BitVec.ofNat 16 (256 * (s.ap.toNat / 256) + d), phase := .addressComplete
          resp := some (.ok 0x00#8), timer := none })

/-- After an accepted `SW` two address bytes form `(h << 8) | l`, high byte first; every 16-bit address is formed so. -/
def Obligations.AddressPhaseIsHighByteFirst : Prop :=
  (∀ (s : State) (h l : Nat), s.Live → s.op = .none → h < 256 → l < 256 →
    ∃ t u v : State,
      exec .sw s = .next t ∧ exec (.tx h) t = .next u ∧ exec (.tx l) u = .next v ∧
      v.ap.toNat = (h <<< 8) ||| l ∧ v.phase = .addressComplete ∧ v.op = .writing ∧
      v = { s with
            op := .writing, ap := v.ap, phase := .addressComplete, resp := some (.ok 0x00#8), timer := none }) ∧
  (∀ a : Addr, ∃ h l : Nat, h < 256 ∧ l < 256 ∧ a.toNat = (h <<< 8) ||| l)

/-- A data byte at an address with no side effect: it is stored at `ap`, `ap` advances modulo 2^16, every other byte
and everything else is unchanged. The output field `timer` is the model's (log 9). -/
def Obligations.DataByteIsStored : Prop :=
  ∀ (s : State) (d : Nat), s.Live → d < 256 → s.file.wf → s.phase = .addressComplete → s.op = .writing →
    s.ap.toNat < s.cfg.regSize → s.ap.toNat ≠ s.cfg.ctrlAddr →
    ¬ (s.cfg.alarmAddr ≤ s.ap.toNat ∧ s.ap.toNat < s.cfg.alarmAddr + s.cfg.alarmLen) →
    (s.cfg.irqReevalOnWrite = true →
      ¬ (s.cfg.maskAddr ≤ s.ap.toNat ∧ s.ap.toNat < s.cfg.maskAddr + s.cfg.irqLen) ∧
      ¬ (s.cfg.eventAddr ≤ s.ap.toNat ∧ s.ap.toNat < s.cfg.eventAddr + s.cfg.irqLen)) →
      ∃ m : Memory,
        exec (.tx d) s =
          .next { s with
            file := m, ap := BitVec.ofNat 16 (s.ap.toNat + 1), resp := some (.ok 0x00#8), timer := none } ∧
        (∀ a, m.read a = if a = s.ap.toNat then BitVec.ofNat 8 d else s.file.read a)

/-- A data byte into the mask or the event register, with `P_IRQ_REEVAL_ON_WRITE`: it is stored, and the line then
equals the AND condition of the new bytes; every other byte and everything else is unchanged. The switch is the spec's
decision D14 (log 13). -/
def Obligations.IrqRegisterWriteReevaluatesLine : Prop :=
  ∀ (s : State) (d : Nat), s.Live → d < 256 → s.file.wf → s.cfg.wellFormed = true → s.cfg.irqReevalOnWrite = true →
    s.phase = .addressComplete → s.op = .writing →
    ((s.cfg.maskAddr ≤ s.ap.toNat ∧ s.ap.toNat < s.cfg.maskAddr + s.cfg.irqLen) ∨
      (s.cfg.eventAddr ≤ s.ap.toNat ∧ s.ap.toNat < s.cfg.eventAddr + s.cfg.irqLen)) →
      ∃ m : Memory, ∃ line : Bool,
        exec (.tx d) s =
          .next { s with
            file := m, ap := BitVec.ofNat 16 (s.ap.toNat + 1), irq := line
            resp := some (.ok 0x00#8), timer := none } ∧
        (∀ a, m.read a = if a = s.ap.toNat then BitVec.ofNat 8 d else s.file.read a) ∧
        (line = true ↔
          ∃ i, i < s.cfg.irqLen ∧ m.read (s.cfg.maskAddr + i) &&& m.read (s.cfg.eventAddr + i) ≠ 0x00#8)

/-- The two rejections of a data byte, tested in the order `op`, bounds. Decisions D13 and D15 (logs 23, 24). -/
def Obligations.DataByteRejections : Prop :=
  ∀ (s : State) (d : Nat), s.Live → d < 256 → s.phase = .addressComplete →
    (s.op ≠ .writing → exec (.tx d) s = .next (s.rejected .txNotWriting)) ∧
    (s.op = .writing → s.cfg.regSize ≤ s.ap.toNat → exec (.tx d) s = .next (s.rejected .txOutOfRange))

/-- `WRITE a, b1 .. bn` (R101) from an idle bus, over plain storage: the bytes lie in order from `a` on, `ap` has
passed them, every other byte and everything else is unchanged. The expansion is the spec's decision D8. R101
gives it for at least one byte; the case without a byte is the model's choice (log 17). The output field `timer` is the
model's (log 9). -/
def Obligations.BlockWriteStoresItsBytes : Prop :=
  ∀ (s : State) (a : Addr) (bytes : List Byte), s.Live → s.file.wf → s.op = .none →
    a.toNat + bytes.length ≤ s.cfg.regSize → s.cfg.regSize ≤ 65536 →
    (∀ x, a.toNat ≤ x → x < a.toNat + bytes.length →
      x ≠ s.cfg.ctrlAddr ∧ ¬ (s.cfg.alarmAddr ≤ x ∧ x < s.cfg.alarmAddr + s.cfg.alarmLen) ∧
      ¬ (s.cfg.maskAddr ≤ x ∧ x < s.cfg.maskAddr + s.cfg.irqLen) ∧
      ¬ (s.cfg.eventAddr ≤ x ∧ x < s.cfg.eventAddr + s.cfg.irqLen)) →
      ∃ m : Memory,
        execAll (expand (.write a bytes)) s =
          .next { s with
            file := m, op := .none, ap := BitVec.ofNat 16 (a.toNat + bytes.length), phase := .addressComplete
            resp := some (.ok 0x00#8), timer := none } ∧
        (∀ x, m.read x =
          if a.toNat ≤ x ∧ x < a.toNat + bytes.length then bytes.getD (x - a.toNat) 0x00#8 else s.file.read x)

/-- Write and read back (the source's first testable property): the byte written at `(h << 8) | l` is returned by a read
of that address, unless it lies in the live-clock window. -/
def Obligations.WrittenByteReadsBack : Prop :=
  ∀ (s : State) (h l d : Nat), s.Live → s.Good → s.op = .none → h < 256 → l < 256 → d < 256 →
    256 * h + l < s.cfg.regSize →
    ¬ (s.cfg.clkAddr ≤ 256 * h + l ∧ 256 * h + l < s.cfg.clkAddr + 7) →
      ∃ t : State,
        execAll [.sw, .tx h, .tx l, .tx d, .fin, .sw, .tx h, .tx l, .fin, .sr, .rx] s = .next t ∧
        t.resp = some (.ok (BitVec.ofNat 8 d)) ∧ t.file.read (256 * h + l) = BitVec.ofNat 8 d

/-- A tail of bytes after a RESET inside a transaction: two are taken as an address, the third is rejected, nothing is
stored. Decision D15 (log 23). -/
def Obligations.StrayBytesAfterResetStoreNothing : Prop :=
  ∀ (s : State) (x y z : Nat), s.Live → x < 256 → y < 256 → z < 256 →
    ∃ t u v w : State,
      exec .reset s = .next t ∧ exec (.tx x) t = .next u ∧ exec (.tx y) u = .next v ∧
      u.resp = some (.ok 0x00#8) ∧ v.resp = some (.ok 0x00#8) ∧
      exec (.tx z) v = .next w ∧ w.resp = some (.rej .txNotWriting) ∧
      w.file = t.file ∧ w.ap.toNat = 256 * x + y ∧ w.phase = .addressComplete ∧ w.op = .none

/-! ## The tick clock -/

/-- The tick never decreases with elapsed time, until it wraps at 2^49 seconds: with R151's own definition of `sub_ticks`,
and, as the named property of R151 has it, in every well-formed configuration whose `sub_ticks` is that definition or a
list of steps (log 28). The sub-second function is the spec's decision D11 (log 10), the width D27. -/
def Obligations.TickNeverDecreases : Prop :=
  (∀ e e' : Nat, e ≤ e' → e' < 2 ^ 49 * 1000000000 → (tickOf e).toNat ≤ (tickOf e').toNat) ∧
  ∀ c : Config, c.wellFormed = true → (∀ k, c.subTicks ≠ .platform k) → TickLawful c

/-- The tick is 0 at creation and gains exactly 32768 in exactly one second, also with a list of steps for `sub_ticks` (log 28).
The sub-second function is the spec's decision D11 (log 10). -/
def Obligations.TickGainsHzPerSecond : Prop :=
  tickOf 0 = 0#64 ∧ (∀ e : Nat, tickOf (e + 1000000000) = tickOf e + 32768#64) ∧
  ∀ (src : SubTicks) (e : Nat), (∀ k, src ≠ .platform k) →
    tickWith (subTicksOf src) (e + 1000000000) = tickWith (subTicksOf src) e + 32768#64

/-- With any sub-second function below 32768 the tick holds whole seconds in bits 63:15 and the function in bits 14:0.
That the function is replaceable is R151's own remark (log 10). -/
def Obligations.TickFieldsForAnySubSecond : Prop :=
  ∀ (sub : Nat → Nat) (e : Nat), (∀ x, sub x < 32768) →
    (tickWith sub e).toNat / 32768 = e / 1000000000 % 2 ^ 49 ∧ (tickWith sub e).toNat % 32768 = sub e

/-- How a reader recovers the clock from the seven window bytes, whichever `sub_ticks` the configuration names. Decisions
D11 and D12 (logs 10, 11, 28). -/
def Obligations.WindowBytesGiveBackTheClock : Prop :=
  ∀ (src : SubTicks) (e : Nat), ∃ p0 p1 p2 p3 p4 p5 p6 : Byte,
    pack7 (tickWith (subTicksOf src) e) = [p0, p1, p2, p3, p4, p5, p6] ∧
    p0.toNat % 2 = 0 ∧
    (p0.toNat + 256 * p1.toNat) / 2 = subTicksOf src e ∧
    (src = .exact → (p0.toNat + 256 * p1.toNat) / 2 = e % 1000000000 * 32768 / 1000000000) ∧
    p2.toNat + 256 * p3.toNat + 256 ^ 2 * p4.toNat + 256 ^ 3 * p5.toNat + 256 ^ 4 * p6.toNat =
      e / 1000000000 % 2 ^ 40

/-- A window read at a later clock value is not earlier (the source's third testable property), with every `sub_ticks`
that has the named property of R151: the seven bytes, read as one little-endian number, do not decrease, until the window
wraps at 2^40 seconds. The form of `sub_ticks` in the configuration is the model's choice (log 28); the byte layout is D12 (log 11). -/
def Obligations.LaterWindowReadIsNotEarlier : Prop :=
  ∀ s t : State, s.Live → t.Live → s.cfg = t.cfg → s.rtcOffset = t.rtcOffset → s.now ≤ t.now →
    TickLawful s.cfg → t.now - t.rtcOffset < 2 ^ 40 * 1000000000 →
    (∀ u ∈ [s, t], u.file.wf ∧ u.op = .reading ∧ u.phase = .addressComplete ∧ u.ap.toNat < u.cfg.regSize ∧
      u.cfg.clkAddr ≤ u.ap.toNat ∧ u.ap.toNat < u.cfg.clkAddr + 7) →
      ∃ s' t' : State, exec .rx s = .next s' ∧ exec .rx t = .next t' ∧
        s'.file.le s.cfg.clkAddr 7 ≤ t'.file.le s.cfg.clkAddr 7

/-! ## The alarm scheduler -/

/-- R170, with `target_seconds` and ALARM_FIRE by their own names. The output field `timer` is the model's (log 9). -/
def Obligations.AlarmReevalDisarmsFiresOrArms : Prop :=
  ∀ s : State,
    (s.file.read s.cfg.ctrlAddr &&& s.cfg.ctrlAlarmEnMask = 0x00#8 →
      s.alarmReeval.alarmDeadline = none ∧
      s.alarmReeval = { s with alarmDeadline := none, timer := s.alarmReeval.timer }) ∧
    (s.file.read s.cfg.ctrlAddr &&& s.cfg.ctrlAlarmEnMask ≠ 0x00#8 → s.targetSeconds = 0 →
      s.alarmReeval.alarmDeadline = none ∧
      s.alarmReeval = State.alarmFire { s with alarmDeadline := none, timer := s.alarmReeval.timer }) ∧
    (s.file.read s.cfg.ctrlAddr &&& s.cfg.ctrlAlarmEnMask ≠ 0x00#8 → s.targetSeconds ≠ 0 →
      s.alarmReeval.alarmDeadline = some (s.now + s.targetSeconds * 1000000000) ∧
      s.alarmReeval =
        { s with
          alarmDeadline := some (s.now + s.targetSeconds * 1000000000), timer := s.alarmReeval.timer })

/-- `target_seconds` is congruent to the raw alarm field minus the coarse seconds, and fits in `ALARM_ARITH_BITS` bits.
Byte order and wrap are the spec's decision D10 (log 12). -/
def Obligations.TargetSecondsWrapsTheDifference : Prop :=
  ∀ s : State,
    s.targetSeconds < 2 ^ s.cfg.alarmArithBits ∧
    ∃ q : Int,
      (s.targetSeconds : Int) =
        (s.file.le s.cfg.alarmAddr s.cfg.alarmLen : Int) - ((s.now - s.rtcOffset) / 1000000000 % 2 ^ 49 : Nat) +
          q * (2 ^ s.cfg.alarmArithBits : Nat)

/-- R173: the alarm-event bit is ORed into its byte, every other byte is kept, and the line is recomputed; nothing else
changes. -/
def Obligations.AlarmFireSetsItsBitAndTheLine : Prop :=
  ∀ s : State, s.file.wf →
    ∃ m : Memory, ∃ line : Bool,
      s.alarmFire = { s with file := m, irq := line } ∧
      (∀ a, m.read a =
        if a = s.cfg.eventAddr + s.cfg.alarmEvtOff then s.file.read a ||| s.cfg.alarmEvtMask else s.file.read a) ∧
      (line = true ↔
        ∃ i, i < s.cfg.irqLen ∧ m.read (s.cfg.maskAddr + i) &&& m.read (s.cfg.eventAddr + i) ≠ 0x00#8)

/-- A data byte to the control register or the alarm field is stored, and ALARM_REEVAL then runs on the stored state,
inside the same event (R135, R174). The output field `timer` is the model's (log 9). -/
def Obligations.AlarmWriteRunsReevaluation : Prop :=
  ∀ (s : State) (d : Nat), s.Live → d < 256 → s.cfg.wellFormed = true → s.phase = .addressComplete → s.op = .writing →
    (s.ap.toNat = s.cfg.ctrlAddr ∨
      (s.cfg.alarmAddr ≤ s.ap.toNat ∧ s.ap.toNat < s.cfg.alarmAddr + s.cfg.alarmLen)) →
      exec (.tx d) s =
        .next { State.alarmReeval { s with
                  file := s.file.write s.ap.toNat (BitVec.ofNat 8 d), ap := BitVec.ofNat 16 (s.ap.toNat + 1)
                  resp := none, timer := none } with
          resp := some (.ok 0x00#8) }

/-- A data byte to the control register or the alarm field that leaves the enable bit clear cancels the alarm; only the
stored byte, `ap` and the deadline change. When `cancel` is sent is the model's choice (log 9). -/
def Obligations.DisabledAlarmIsCancelled : Prop :=
  ∀ (s : State) (d : Nat), s.Live → d < 256 → s.file.wf → s.cfg.wellFormed = true →
    s.phase = .addressComplete → s.op = .writing →
    (s.ap.toNat = s.cfg.ctrlAddr ∨
      (s.cfg.alarmAddr ≤ s.ap.toNat ∧ s.ap.toNat < s.cfg.alarmAddr + s.cfg.alarmLen)) →
    (s.file.write s.ap.toNat (BitVec.ofNat 8 d)).read s.cfg.ctrlAddr &&& s.cfg.ctrlAlarmEnMask = 0x00#8 →
      ∃ m : Memory, ∃ note : Option TimerNote,
        exec (.tx d) s =
          .next { s with
            file := m, ap := BitVec.ofNat 16 (s.ap.toNat + 1), alarmDeadline := none
            resp := some (.ok 0x00#8), timer := note } ∧
        note = (if s.alarmDeadline = none then none else some .cancel) ∧
        (∀ a, m.read a = if a = s.ap.toNat then BitVec.ofNat 8 d else s.file.read a)

/-- A data byte to the control register or the alarm field that leaves the alarm enabled with its target equal to the
coarse seconds fires inside the same event. The byte order of the field is the spec's decision D10 (log 12), when
`cancel` is sent the model's choice (log 9). -/
def Obligations.TargetNowFiresWithinTheWrite : Prop :=
  ∀ (s : State) (d : Nat), s.Live → d < 256 → s.file.wf → s.cfg.wellFormed = true →
    s.phase = .addressComplete → s.op = .writing →
    (s.ap.toNat = s.cfg.ctrlAddr ∨
      (s.cfg.alarmAddr ≤ s.ap.toNat ∧ s.ap.toNat < s.cfg.alarmAddr + s.cfg.alarmLen)) →
    (s.file.write s.ap.toNat (BitVec.ofNat 8 d)).read s.cfg.ctrlAddr &&& s.cfg.ctrlAlarmEnMask ≠ 0x00#8 →
    (s.file.write s.ap.toNat (BitVec.ofNat 8 d)).le s.cfg.alarmAddr s.cfg.alarmLen =
      (s.now - s.rtcOffset) / 1000000000 % 2 ^ 49 →
      ∃ m : Memory, ∃ line : Bool, ∃ note : Option TimerNote,
        exec (.tx d) s =
          .next { s with
            file := m, ap := BitVec.ofNat 16 (s.ap.toNat + 1), alarmDeadline := none, irq := line
            resp := some (.ok 0x00#8), timer := note } ∧
        note = (if s.alarmDeadline = none then none else some .cancel) ∧
        (∀ a, m.read a =
          if a = s.ap.toNat then BitVec.ofNat 8 d
          else if a = s.cfg.eventAddr + s.cfg.alarmEvtOff then s.file.read a ||| s.cfg.alarmEvtMask
          else s.file.read a) ∧
        (line = true ↔
          ∃ i, i < s.cfg.irqLen ∧ m.read (s.cfg.maskAddr + i) &&& m.read (s.cfg.eventAddr + i) ≠ 0x00#8)

/-- A data byte to the control register or the alarm field that leaves the alarm enabled with a target after the coarse
seconds arms it: the deadline is the start of the target second plus the sub-second phase of the moment of arming. The
byte order of the field is the spec's decision D10 (log 12), the notification the model's choice (log 9). -/
def Obligations.FutureTargetArmsAtItsSecond : Prop :=
  ∀ (s : State) (d : Nat), s.Live → d < 256 → s.file.wf → s.cfg.wellFormed = true →
    s.phase = .addressComplete → s.op = .writing →
    (s.ap.toNat = s.cfg.ctrlAddr ∨
      (s.cfg.alarmAddr ≤ s.ap.toNat ∧ s.ap.toNat < s.cfg.alarmAddr + s.cfg.alarmLen)) →
    (s.file.write s.ap.toNat (BitVec.ofNat 8 d)).read s.cfg.ctrlAddr &&& s.cfg.ctrlAlarmEnMask ≠ 0x00#8 →
    ∀ target : Nat,
      (s.file.write s.ap.toNat (BitVec.ofNat 8 d)).le s.cfg.alarmAddr s.cfg.alarmLen = target →
      (s.now - s.rtcOffset) / 1000000000 < target →
      (s.now - s.rtcOffset) / 1000000000 < 2 ^ 49 →
      target - (s.now - s.rtcOffset) / 1000000000 < 2 ^ s.cfg.alarmArithBits →
        ∃ m : Memory, ∃ due : Nat,
          exec (.tx d) s =
            .next { s with
              file := m, ap := BitVec.ofNat 16 (s.ap.toNat + 1), alarmDeadline := some due
              resp := some (.ok 0x00#8), timer := some (.arm due) } ∧
          due = s.rtcOffset + target * 1000000000 + (s.now - s.rtcOffset) % 1000000000 ∧
          (∀ a, m.read a = if a = s.ap.toNat then BitVec.ofNat 8 d else s.file.read a)

/-- A data byte to the control register or the alarm field that leaves the alarm enabled with a target `late` seconds before
the coarse seconds arms it 2^ALARM_ARITH_BITS - late seconds ahead, whatever that width is. The unsigned wrap is the spec's
decision D10 (log 12), the notification `timer` the model's choice (log 9). -/
def Obligations.PastTargetArmsTheWrappedDistance : Prop :=
  ∀ (s : State) (d : Nat), s.Live → d < 256 → s.file.wf → s.cfg.wellFormed = true →
    s.phase = .addressComplete → s.op = .writing →
    (s.ap.toNat = s.cfg.ctrlAddr ∨
      (s.cfg.alarmAddr ≤ s.ap.toNat ∧ s.ap.toNat < s.cfg.alarmAddr + s.cfg.alarmLen)) →
    (s.file.write s.ap.toNat (BitVec.ofNat 8 d)).read s.cfg.ctrlAddr &&& s.cfg.ctrlAlarmEnMask ≠ 0x00#8 →
    ∀ late : Nat,
      (s.file.write s.ap.toNat (BitVec.ofNat 8 d)).le s.cfg.alarmAddr s.cfg.alarmLen + late =
        (s.now - s.rtcOffset) / 1000000000 % 2 ^ 49 →
      1 ≤ late → late < 2 ^ s.cfg.alarmArithBits →
        ∃ m : Memory, ∃ due : Nat,
          exec (.tx d) s =
            .next { s with
              file := m, ap := BitVec.ofNat 16 (s.ap.toNat + 1), alarmDeadline := some due
              resp := some (.ok 0x00#8), timer := some (.arm due) } ∧
          due = s.now + (2 ^ s.cfg.alarmArithBits - late) * 1000000000 ∧
          (∀ a, m.read a = if a = s.ap.toNat then BitVec.ofNat 8 d else s.file.read a)

/-- R175: the word and the format of `EXPIRE`; it spends the timer and fires the alarm, and has no step unless an alarm
is pending and due. The output field `timer` is the model's (log 9). -/
def Obligations.ExpireFiresADueAlarmOnly : Prop :=
  decode 0x900#12 = .event .expire ∧ Instr.expire.format = .host ∧
  ∀ s : State, s.Live →
    (∀ due, s.alarmDeadline = some due → due ≤ s.now → s.file.wf →
      ∃ m : Memory, ∃ line : Bool,
        exec .expire s =
          .next { s with file := m, alarmDeadline := none, irq := line, resp := none, timer := none } ∧
        (∀ a, m.read a =
          if a = s.cfg.eventAddr + s.cfg.alarmEvtOff then s.file.read a ||| s.cfg.alarmEvtMask else s.file.read a) ∧
        (line = true ↔
          ∃ i, i < s.cfg.irqLen ∧ m.read (s.cfg.maskAddr + i) &&& m.read (s.cfg.eventAddr + i) ≠ 0x00#8)) ∧
    (∀ due, s.alarmDeadline = some due → s.now < due → exec .expire s = .refused .beforeDeadline) ∧
    (s.alarmDeadline = none → exec .expire s = .refused .noAlarmPending)

/-- An armed alarm whose deadline is reached sets its event bit, and raises the line when its own mask bit is set. -/
def Obligations.DueAlarmRaisesItsUnmaskedLine : Prop :=
  ∀ s t : State, s.Good → exec .expire s = .next t →
    t.file.read (s.cfg.eventAddr + s.cfg.alarmEvtOff) &&& s.cfg.alarmEvtMask = s.cfg.alarmEvtMask ∧
    (s.file.read (s.cfg.maskAddr + s.cfg.alarmEvtOff) &&& s.cfg.alarmEvtMask ≠ 0x00#8 → t.irq = true)

/-! ## The interrupt line -/

/-- R190: the line is recomputed from the two registers paired byte by byte, or, the same, as the AND of the two
little-endian numbers being nonzero; nothing else changes, and a second run changes nothing. -/
def Obligations.IrqReevalIsTheRegistersAnd : Prop :=
  ∀ s : State,
    (s.irqReeval.irq = true ↔
      ∃ i, i < s.cfg.irqLen ∧ s.file.read (s.cfg.maskAddr + i) &&& s.file.read (s.cfg.eventAddr + i) ≠ 0x00#8) ∧
    s.irqReeval =
      { s with irq := decide (s.file.le s.cfg.maskAddr s.cfg.irqLen &&& s.file.le s.cfg.eventAddr s.cfg.irqLen ≠ 0) } ∧
    s.irqReeval.irqReeval = s.irqReeval

/-! ## Host events -/

/-- `RESET`: the transaction state, the register file, the alarm and the line, by the policy switches; the clock offset
and everything else are kept. The switches are the spec's decisions D16 to D18 (log 13), `timer` is the model's (log
9). -/
def Obligations.ResetLeavesItsContract : Prop :=
  ∀ s : State, s.Live → s.cfg.wellFormed = true → s.snapshot.length = s.cfg.snapLen → s.file.wf →
    ∃ m : Memory, ∃ note : Option TimerNote,
      exec .reset s =
        .next { s with
          file := m, op := .none, ap := 0#16, phase := .awaitingHighByte
          alarmDeadline := if s.cfg.resetDisarmsAlarm then none else s.alarmDeadline
          irq := if s.cfg.resetReevalIrq then false else s.irq
          resp := none, timer := note } ∧
      note = (if s.cfg.resetDisarmsAlarm = true ∧ s.alarmDeadline ≠ none then some .cancel else none) ∧
      (∀ a, a < s.cfg.regSize →
        m.read a =
          if s.cfg.idBase ≤ a ∧ a < s.cfg.idBase + s.cfg.idLen then 0xFF#8
          else if s.cfg.resetScratch = .snapshot ∧ s.cfg.snapAddr ≤ a ∧ a < s.cfg.snapAddr + s.cfg.snapLen then
            s.snapshot.getD (a - s.cfg.snapAddr) 0x00#8
          else 0x00#8)

/-- `CREATE`: the clock value becomes tick 0, the register file is zero but for the snapshot, the alarm is disarmed,
the line is down and no transaction is open. Decisions D19 and D20 of the spec (log 25); the outputs start empty by the
model's choice (logs 8, 9). -/
def Obligations.CreateBuildsTheInstance : Prop :=
  ∀ s : State, s.Creatable →
    ∃ m : Memory,
      exec .create s =
        .next { s with
          file := m, op := .none, ap := 0#16, phase := .awaitingHighByte, rtcOffset := s.now
          alarmDeadline := none, irq := false, cfg := s.argCfg, snapshot := s.argSnapshot, created := true
          resp := none, diag := [], timer := none } ∧
      (∀ a, m.read a =
        if s.argCfg.snapAddr ≤ a ∧ a < s.argCfg.snapAddr + s.argCfg.snapLen then
          s.argSnapshot.getD (a - s.argCfg.snapAddr) 0x00#8
        else 0x00#8)

/-- `CREATE` reads no earlier state: its next state is fixed by its own inputs. -/
def Obligations.CreateReadsNoEarlierState : Prop :=
  ∀ s t : State, s.created = t.created → s.now = t.now → s.argSnapshot = t.argSnapshot → s.argCfg = t.argCfg →
    s.events = t.events → exec .create s = exec .create t

/-- The state after reset is what CREATE at clock value 0 with a zero snapshot under REF, and then RESET, leave. Clock
value, snapshot and REF are the model's choices (logs 1, 6). -/
def Obligations.ResetStateIsCreateThenReset : Prop :=
  ∀ s : State, s.created = false → s.now = 0 → s.argCfg = Config.ref → s.argSnapshot = List.replicate 8 0x00#8 →
    s.events = [] → ∃ t : State, exec .create s = .next t ∧ exec .reset t = .next State.reset

/-- Inputs that break a host obligation have no step. The model's refusals (logs 4, 5). -/
def Obligations.BrokenHostObligationIsRefused : Prop :=
  (∀ (s : State) (i : Instr), s.created = false → i ≠ .create → exec i s = .refused .beforeCreate) ∧
  (∀ (s : State) (i : Instr), s.created = true → s.now < s.rtcOffset → i ≠ .create →
    exec i s = .refused .clockBelowOffset) ∧
  (∀ s : State, s.created = true → exec .create s = .refused .secondCreate) ∧
  (∀ (s : State) (d : Nat), s.Live → 256 ≤ d → exec (.tx d) s = .refused .dataAbove255)

/-- The response word: status in bit 12, the cause code in bits 11:8, the byte in bits 7:0; the nine codes are 1 to 9,
and every rejection carries byte 0x00. The layout and the codes are the spec's decision D7 (log 26). -/
def Obligations.ResponseWordHasItsFields : Prop :=
  (∀ b : Byte, (Response.ok b).word.toNat = b.toNat) ∧
  (∀ c : Cause, (Response.rej c).word.toNat = 4096 + 256 * c.code ∧ 1 ≤ c.code ∧ c.code ≤ 9) ∧
  (∀ r r' : Response, r.word = r'.word → r = r')

/-! ## Rules about every event -/

/-- On a live instance every bus event with a byte operand is answered, and so is RESET: the device has no halt. -/
def Obligations.EveryBusEventIsAnswered : Prop :=
  ∀ (s : State) (i : Instr), s.Live → i.wellFormed = true →
    (i.format = .bus → ∃ t r, exec i s = .next t ∧ t.resp = some r) ∧
    (i = .reset → ∃ t, exec i s = .next t ∧ t.resp = none)

/-- A rejection changes no state: only the response and one diagnostic record (log 8) tell of it, and the
output field `timer` is empty by the model's choice (log 9). -/
def Obligations.RejectionChangesNoState : Prop :=
  ∀ (i : Instr) (s t : State) (c : Cause), exec i s = .next t → t.resp = some (.rej c) → t = s.rejected c

/-- The diagnostic channel gets one record per rejection, with the values at the event, and none otherwise. The record
is the spec's decision D7 (log 8). -/
def Obligations.OneDiagnosticRecordPerRejection : Prop :=
  ∀ (i : Instr) (s t : State), s.cfg.wellFormed = true → s.snapshot.length = s.cfg.snapLen → i ≠ .create →
    exec i s = .next t →
      ((∃ c, t.resp = some (.rej c) ∧ t.diag = s.diag ++ [.rejection c s.ap s.op s.phase]) ∨
       ((∀ c, t.resp ≠ some (.rej c)) ∧ t.diag = s.diag))

/-- The clock offset is set by CREATE, to its clock value, and by no other event. -/
def Obligations.OnlyCreateWritesTheOffset : Prop :=
  ∀ (i : Instr) (s t : State), exec i s = .next t →
    (i = .create → t.rtcOffset = s.now) ∧ (i ≠ .create → t.rtcOffset = s.rtcOffset)

/-- `phase` advances by one byte-in at a time and goes back only by an accepted SW, RESET or CREATE. -/
def Obligations.PhaseMovesOnlyByItsEvents : Prop :=
  ∀ (i : Instr) (s t : State), exec i s = .next t → t.phase ≠ s.phase →
    (∃ d, i = .tx d ∧ s.phase = .awaitingHighByte ∧ t.phase = .awaitingLowByte) ∨
    (∃ d, i = .tx d ∧ s.phase = .awaitingLowByte ∧ t.phase = .addressComplete) ∨
    ((i = .sw ∨ i = .reset ∨ i = .create) ∧ t.phase = .awaitingHighByte)

/-- Outside RESET and CREATE the register file changes only where R70 and R173 say: the window bytes on a read inside the
window, the byte at `ap` on a data write, the alarm-event byte on a data write to the control register or the alarm field
and on EXPIRE. -/
def Obligations.RegisterFileChangesOnlyThere : Prop :=
  ∀ (i : Instr) (s t : State) (a : Nat), s.file.wf → i ≠ .reset → i ≠ .create → exec i s = .next t →
    t.file.read a ≠ s.file.read a →
      (i = .rx ∧ s.cfg.clkAddr ≤ s.ap.toNat ∧ s.ap.toNat < s.cfg.clkAddr + 7 ∧
        s.cfg.clkAddr ≤ a ∧ a < s.cfg.clkAddr + 7) ∨
      (∃ d, i = .tx d ∧ s.phase = .addressComplete ∧ s.op = .writing ∧
        (a = s.ap.toNat ∨
          ((s.ap.toNat = s.cfg.ctrlAddr ∨
              (s.cfg.alarmAddr ≤ s.ap.toNat ∧ s.ap.toNat < s.cfg.alarmAddr + s.cfg.alarmLen)) ∧
            a = s.cfg.eventAddr + s.cfg.alarmEvtOff))) ∨
      (i = .expire ∧ a = s.cfg.eventAddr + s.cfg.alarmEvtOff)

/-- Each event either leaves the line as it was or leaves it at the AND condition of the registers it leaves. -/
def Obligations.LineIsKeptOrRecomputed : Prop :=
  ∀ (i : Instr) (s t : State), i ≠ .create → exec i s = .next t →
    t.irq = s.irq ∨
      (t.irq = true ↔
        ∃ j, j < t.cfg.irqLen ∧ t.file.read (t.cfg.maskAddr + j) &&& t.file.read (t.cfg.eventAddr + j) ≠ 0x00#8)

/-- The alarm deadline changes only on a data write to the control register or the alarm field, on EXPIRE, RESET and
CREATE; a new deadline lies a whole positive number of seconds after `now`. -/
def Obligations.DeadlineChangesOnlyByItsEvents : Prop :=
  ∀ (i : Instr) (s t : State), exec i s = .next t → t.alarmDeadline ≠ s.alarmDeadline →
    (i = .expire ∧ t.alarmDeadline = none) ∨ (i = .reset ∧ t.alarmDeadline = none) ∨
    (i = .create ∧ t.alarmDeadline = none) ∨
    (∃ d, i = .tx d ∧ s.phase = .addressComplete ∧ s.op = .writing ∧
      (s.ap.toNat = s.cfg.ctrlAddr ∨
        (s.cfg.alarmAddr ≤ s.ap.toNat ∧ s.ap.toNat < s.cfg.alarmAddr + s.cfg.alarmLen)) ∧
      (t.alarmDeadline = none ∨
        ∃ k, 1 ≤ k ∧ k < 2 ^ s.cfg.alarmArithBits ∧ t.alarmDeadline = some (s.now + k * 1000000000)))

/-- The notifications to the host clock service mirror the deadline: arm, cancel, or no change but the firing itself.
When a notification is sent is the model's choice (log 9). -/
def Obligations.TimerNotesMirrorTheDeadline : Prop :=
  ∀ (i : Instr) (s t : State), i ≠ .create → exec i s = .next t →
    (∀ d, t.timer = some (.arm d) → t.alarmDeadline = some d) ∧
    (t.timer = some .cancel → t.alarmDeadline = none ∧ s.alarmDeadline ≠ none) ∧
    (t.timer = none → i ≠ .expire → t.alarmDeadline = s.alarmDeadline) ∧
    (i = .expire → t.timer = none ∧ t.alarmDeadline = none)

/-- No bus access reads the deadline: with another deadline every bus event gives the same response, the same diagnostic
records, the same register file, the same line, the same transaction state and the same rest of the state, and the
deadline is either kept in both or given the same new value. The output field `timer` is left out: the model's
notification of a cancelled alarm says whether one was pending (log 9). -/
def Obligations.NoBusEventReadsTheDeadline : Prop :=
  ∀ (i : Instr) (s t : State) (other : Option Nat), i.format = .bus → exec i s = .next t →
    ∃ u : State, exec i { s with alarmDeadline := other } = .next u ∧
      u = { t with alarmDeadline := u.alarmDeadline, timer := u.timer } ∧
      (u.alarmDeadline = t.alarmDeadline ∨ (u.alarmDeadline = other ∧ t.alarmDeadline = s.alarmDeadline))

/-! ## The register file as memory -/

/-- R61 and R62: reads and writes of the primitives, inside and outside the register file. The layout of the report is
the model's choice (log 8). -/
def Obligations.PrimitivesAreBoundsChecked : Prop :=
  ∀ (s : State) (a : Nat) (v : Byte),
    (s.cfg.regSize ≤ a →
      s.memRead a = (0x00#8, { s with diag := s.diag ++ [.outOfRange a] }) ∧
      s.memWrite a v = { s with diag := s.diag ++ [.outOfRange a] }) ∧
    (a < s.cfg.regSize →
      s.memRead a = (s.file.read a, s) ∧
      ∃ m : Memory, s.memWrite a v = { s with file := m } ∧
        (s.file.wf → ∀ x, m.read x = if x = a then v else s.file.read x))

/-- `clear` in closed form is `fill` with zero, byte by byte, reports included. The closed form is the model's choice
(log 15), the bounds reading the spec's decision D28. -/
def Obligations.ClearIsFillWithZero : Prop :=
  ∀ (s : State) (lo n : Nat), s.file.wf → s.clear lo n = s.fill lo n 0x00#8

/-! ## Invariants -/

/-- Every step keeps a good state: a well-formed configuration, a canonical register file inside its bounds, a clock not
below its offset, and INV1 to INV5. -/
def Obligations.StepKeepsGoodStates : Prop :=
  ∀ s t : State, s.Inv → step s = .next t → t.Inv

/-- The state after reset is an instance in a good state. The values the spec does not give are the model's (log 6). -/
def Obligations.ResetStateIsGood : Prop := State.reset.created = true ∧ State.reset.Good
end

