-- ==== Sys2Proof/Laws/Clock.lean ====
section
/-! SUPPORT. The tick clock in natural-number arithmetic (42_tick_clock.md R150 to R154). -/

namespace Sys2Proof.Machine

theorem subTicks_lt (e : Nat) : subTicks e < 32768 := Nat.mod_lt _ (by decide)

/-- R151: `sub_ticks` lies in 0..32767, whichever function the configuration names. -/
theorem subTicksOf_lt (src : SubTicks) (e : Nat) : subTicksOf src e < 32768 := by
  cases src with
  | exact => exact subTicks_lt e
  | steps starts => exact Nat.mod_lt _ (by decide)
  | platform k => exact (Config.platformSubTicks k e).isLt

/-- R151's own definition, by its name in the configuration. -/
@[simp] theorem subTicksOf_exact : subTicksOf .exact = subTicks := rfl

/-- A replaced function without a name of its own restarts with each second, as R151's does. -/
theorem subTicksOf_add_second {src : SubTicks} (h : ∀ k, src ≠ .platform k) (e : Nat) :
    subTicksOf src (e + 1000000000) = subTicksOf src e := by
  cases src with
  | exact =>
    have h : (e + 1000000000) * 32768 / 1000000000 = e * 32768 / 1000000000 + 32768 := by omega
    show (e + 1000000000) * 32768 / 1000000000 % 32768 = e * 32768 / 1000000000 % 32768
    rw [h, Nat.add_mod_right]
  | steps starts =>
    have h : (e + 1000000000) % 1000000000 = e % 1000000000 := Nat.add_mod_right _ _
    show (starts.countP fun t => decide (t ≤ (e + 1000000000) % 1000000000)) % tickHz = _
    rw [h]
    rfl
  | platform k => exact absurd rfl (h k)

/-- R152 for any sub-second function below 32768: seconds above bit 15, the function below it. -/
theorem tickWith_toNat {sub : Nat → Nat} {e : Nat} (h : sub e < 32768) :
    (tickWith sub e).toNat = (e / 1000000000 * 32768 + sub e) % 2 ^ 64 := by
  have hs : sub e < 2 ^ subBits := h
  rw [tickWith, BitVec.toNat_ofNat, ← Nat.shiftLeft_add_eq_or_of_lt hs, Nat.shiftLeft_eq]
  rfl

/-- R152 for any sub-second function below 32768: the coarse seconds do not depend on it. -/
theorem tickWith_secs {sub : Nat → Nat} {e : Nat} (h : sub e < 32768) :
    (tickWith sub e >>> subBits).toNat = e / 1000000000 % 2 ^ 49 := by
  rw [BitVec.toNat_ushiftRight, tickWith_toNat h, Nat.shiftRight_eq_div_pow,
    show (2 : Nat) ^ 64 = 32768 * 2 ^ 49 by norm_num, show (2 : Nat) ^ subBits = 32768 from rfl,
    Nat.mod_mul_right_div_self]
  generalize sub e = x at h
  congr 1
  omega

/-- R152: the OR of R150 is a sum, and the sum counts the 32768 Hz periods since creation. -/
theorem packed_eq_periods (e : Nat) : ((e / nsPerSec) <<< subBits) ||| subTicks e = e * 32768 / 1000000000 := by
  have hsub : subTicks e < 2 ^ subBits := subTicks_lt e
  rw [← Nat.shiftLeft_add_eq_or_of_lt hsub, Nat.shiftLeft_eq]
  have hdiv : e * 32768 / 1000000000 / 32768 = e / 1000000000 := by
    rw [Nat.div_div_eq_div_mul, Nat.mul_div_mul_right _ _ (by decide)]
  have h := Nat.div_add_mod (e * 32768 / 1000000000) 32768
  rw [hdiv] at h
  show e / 1000000000 * 32768 + e * 32768 / 1000000000 % 32768 = e * 32768 / 1000000000
  rw [Nat.mul_comm]
  exact h

/-- R152: the tick as a number. -/
theorem tickOf_toNat (e : Nat) : (tickOf e).toNat = (e * 32768 / 1000000000) % 2 ^ 64 := by
  rw [tickOf, tickWith, packed_eq_periods, BitVec.toNat_ofNat]

/-- R152: the coarse seconds of a tick, modulo 2^49. -/
theorem tickOf_secs (e : Nat) : (tickOf e >>> subBits).toNat = e / 1000000000 % 2 ^ 49 := by
  rw [BitVec.toNat_ushiftRight, tickOf_toNat, Nat.shiftRight_eq_div_pow]
  have hdiv : e * 32768 / 1000000000 / 32768 = e / 1000000000 := by
    rw [Nat.div_div_eq_div_mul, Nat.mul_div_mul_right _ _ (by decide)]
  have : (2 : Nat) ^ 64 = 32768 * 2 ^ 49 := by norm_num
  rw [show (2 : Nat) ^ subBits = 32768 from rfl, this, Nat.mod_mul_right_div_self, hdiv]

/-- `W` of R154 as a number. -/
theorem clockWord_toNat (t : Tick) : (clockWord t).toNat = 2 * t.toNat % 2 ^ 56 := by
  rw [clockWord, BitVec.toNat_setWidth, BitVec.toNat_shiftLeft, Nat.shiftLeft_eq]
  omega

@[simp] theorem pack7_length (t : Tick) : (pack7 t).length = 7 := rfl

/-- Byte `k` of the window (R154). -/
theorem pack7_getD (t : Tick) {k : Nat} (hk : k < 7) :
    (pack7 t).getD k 0x00#8 = (clockWord t).extractLsb' (8 * k) 8 := by
  simp [pack7, clkLen, List.getD, hk]

/-- Byte `k` of the window as a number (R154). -/
theorem pack7_getD_toNat (t : Tick) {k : Nat} (hk : k < 7) :
    ((pack7 t).getD k 0x00#8).toNat = 2 * t.toNat % 2 ^ 56 / 2 ^ (8 * k) % 256 := by
  rw [pack7_getD t hk, BitVec.extractLsb'_toNat, clockWord_toNat, Nat.shiftRight_eq_div_pow]

end Sys2Proof.Machine
end

