-- ==== Sys2Proof/Laws/Config.lean ====
section
/-! SUPPORT. The facts a well-formed configuration gives (00_scope.md R8, R9), one lemma each. -/

namespace Sys2Proof

/-- R9 and the clock check split into their nine checks. -/
theorem Config.wellFormed_iff (c : Config) :
    c.wellFormed = true ↔
      c.sizeOk = true ∧ c.idOk = true ∧ c.irqOk = true ∧ c.ctrlOk = true ∧ c.alarmOk = true ∧ c.scratchOk = true ∧
        c.fieldsInFile = true ∧ c.fieldsDisjoint = true ∧ c.clockOk = true := by
  simp only [Config.wellFormed, Bool.and_eq_true, and_assoc]

theorem Config.size_of_wellFormed {c : Config} (h : c.wellFormed = true) : 1 ≤ c.regSize ∧ c.regSize ≤ 65536 := by
  have := (c.wellFormed_iff.mp h).1
  simpa [Config.sizeOk] using this

theorem Config.irq_of_wellFormed {c : Config} (h : c.wellFormed = true) : 1 ≤ c.irqLen ∧ c.alarmEvtOff < c.irqLen := by
  have := (c.wellFormed_iff.mp h).2.2.1
  simp only [Config.irqOk, Bool.and_eq_true, decide_eq_true_eq] at this
  exact this.1

theorem Config.alarm_of_wellFormed {c : Config} (h : c.wellFormed = true) :
    (c.alarmLen = 6 ∨ c.alarmLen = 7) ∧ 1 ≤ c.alarmArithBits ∧ c.alarmArithBits ≤ 64 := by
  have := (c.wellFormed_iff.mp h).2.2.2.2.1
  simpa [Config.alarmOk] using this

theorem Config.scratch_of_wellFormed {c : Config} (h : c.wellFormed = true) :
    c.scratchBase ≤ c.snapAddr ∧ c.snapAddr + c.snapLen ≤ c.scratchBase + c.scratchLen := by
  have := (c.wellFormed_iff.mp h).2.2.2.2.2.1
  simp only [Config.scratchOk, Bool.and_eq_true, decide_eq_true_eq] at this
  exact this.2

/-- R9 (2): every named field lies below `REG_SIZE`. -/
theorem Config.inFile_of_wellFormed {c : Config} (h : c.wellFormed = true) :
    c.idBase + c.idLen ≤ c.regSize ∧ c.maskAddr + c.irqLen ≤ c.regSize ∧ c.eventAddr + c.irqLen ≤ c.regSize ∧
      c.ctrlAddr + 1 ≤ c.regSize ∧ c.alarmAddr + c.alarmLen ≤ c.regSize ∧ c.clkAddr + 7 ≤ c.regSize ∧
        c.scratchBase + c.scratchLen ≤ c.regSize := by
  have := (c.wellFormed_iff.mp h).2.2.2.2.2.2.1
  simpa [Config.fieldsInFile, Config.fields, Machine.clkLen] using this

/-- R151: the step list of a replaced `sub_ticks` is short enough. -/
theorem Config.steps_of_wellFormed {c : Config} (h : c.wellFormed = true) {starts : List Nat}
    (hs : c.subTicks = .steps starts) : starts.length < 32768 := by
  have := (c.wellFormed_iff.mp h).2.2.2.2.2.2.2.2
  simp only [Config.clockOk, hs] at this
  exact of_decide_eq_true this

/-- R9 (3): the named fields are pairwise disjoint, as inequalities. -/
theorem Config.disjoint_of_wellFormed {c : Config} (h : c.wellFormed = true) :
    c.fields.Pairwise disjointRanges := by
  have := (c.wellFormed_iff.mp h).2.2.2.2.2.2.2.1
  simpa [Config.fieldsDisjoint] using this

/-- The disjointness facts that the interrupt and alarm registers need. -/
theorem Config.apart_of_wellFormed {c : Config} (h : c.wellFormed = true) :
    disjointRanges (c.idBase, c.idLen) (c.maskAddr, c.irqLen) ∧
    disjointRanges (c.idBase, c.idLen) (c.eventAddr, c.irqLen) ∧
    disjointRanges (c.idBase, c.idLen) (c.scratchBase, c.scratchLen) ∧
    disjointRanges (c.maskAddr, c.irqLen) (c.eventAddr, c.irqLen) ∧
    disjointRanges (c.maskAddr, c.irqLen) (c.ctrlAddr, 1) ∧
    disjointRanges (c.maskAddr, c.irqLen) (c.alarmAddr, c.alarmLen) ∧
    disjointRanges (c.maskAddr, c.irqLen) (c.clkAddr, 7) ∧
    disjointRanges (c.maskAddr, c.irqLen) (c.scratchBase, c.scratchLen) ∧
    disjointRanges (c.eventAddr, c.irqLen) (c.ctrlAddr, 1) ∧
    disjointRanges (c.eventAddr, c.irqLen) (c.alarmAddr, c.alarmLen) ∧
    disjointRanges (c.eventAddr, c.irqLen) (c.clkAddr, 7) ∧
    disjointRanges (c.eventAddr, c.irqLen) (c.scratchBase, c.scratchLen) ∧
    disjointRanges (c.ctrlAddr, 1) (c.alarmAddr, c.alarmLen) ∧
    disjointRanges (c.ctrlAddr, 1) (c.clkAddr, 7) ∧
    disjointRanges (c.alarmAddr, c.alarmLen) (c.clkAddr, 7) := by
  have := Config.disjoint_of_wellFormed h
  simp only [Config.fields, List.pairwise_cons, List.mem_cons, List.not_mem_nil, or_false, forall_eq_or_imp, forall_eq,
    Machine.clkLen] at this
  obtain ⟨⟨a1, a2, _, _, _, a6⟩, ⟨b1, b2, b3, b4, b5⟩, ⟨c1, c2, c3, c4⟩, ⟨d1, d2, _⟩, ⟨e1, _⟩, _⟩ := this
  exact ⟨a1, a2, a6, b1, b2, b3, b4, b5, c1, c2, c3, c4, d1, d2, e1⟩

end Sys2Proof
end

