-- ==== Sys2Proof/Laws/Memory.lean ====
section
/-! SUPPORT. The laws of the register file: reading after writing, and that every memory operation keeps the canonical
form and the bound. -/

namespace Sys2Proof.Machine

theorem Memory.read_eq_zero_of_forall_ne {m : Memory} {a : Nat} (h : ∀ c ∈ m, c.1 ≠ a) : m.read a = 0x00#8 := by
  induction m with
  | nil => rfl
  | cons c m ih =>
    obtain ⟨b, w⟩ := c
    have hb : ¬ a = b := fun e => h (b, w) (by simp) e.symm
    simp only [Memory.read, if_neg hb]
    exact ih fun d hd => h d (by simp [hd])

@[simp] theorem Memory.read_nil (a : Nat) : Memory.read [] a = 0x00#8 := rfl

theorem Memory.read_cons (b : Nat) (w : Byte) (m : Memory) (a : Nat) :
    Memory.read ((b, w) :: m) a = if a = b then w else m.read a := rfl

/-- Every address of a write's result is the written one or was there before. -/
theorem Memory.mem_write {m : Memory} {a : Nat} {v : Byte} {c : Host.Cell} (h : c ∈ m.write a v) :
    (c = (a, v) ∧ v ≠ 0x00#8) ∨ c ∈ m := by
  induction m with
  | nil =>
    simp only [Memory.write] at h
    split at h
    · cases h
    · left; simpa using ⟨by simpa using h, ‹_›⟩
  | cons d m ih =>
    obtain ⟨b, w⟩ := d
    simp only [Memory.write] at h
    split at h
    · split at h
      · exact .inr h
      · rcases List.mem_cons.mp h with h | h
        · exact .inl ⟨h, ‹_›⟩
        · exact .inr h
    · split at h
      · split at h
        · exact .inr (List.mem_cons_of_mem _ h)
        · rcases List.mem_cons.mp h with h | h
          · exact .inl ⟨h, ‹_›⟩
          · exact .inr (List.mem_cons_of_mem _ h)
      · rcases List.mem_cons.mp h with h | h
        · exact .inr (h ▸ List.mem_cons_self)
        · rcases ih h with h | h
          · exact .inl h
          · exact .inr (List.mem_cons_of_mem _ h)

/-- A write keeps the canonical form. -/
theorem Memory.wf_write {m : Memory} (h : m.wf) (a : Nat) (v : Byte) : (m.write a v).wf := by
  induction m with
  | nil =>
    simp only [Memory.write]
    split
    · exact h
    · exact ⟨by simp, by simpa using ‹_›⟩
  | cons d m ih =>
    obtain ⟨b, w⟩ := d
    obtain ⟨hp, hz⟩ := h
    obtain ⟨hb, hp⟩ := List.pairwise_cons.mp hp
    have hm : Memory.wf m := ⟨hp, fun c hc => hz c (List.mem_cons_of_mem _ hc)⟩
    simp only [Memory.write]
    split
    · rename_i hab
      split
      · exact ⟨List.pairwise_cons.mpr ⟨hb, hp⟩, hz⟩
      · rename_i hv
        refine ⟨List.pairwise_cons.mpr ⟨?_, List.pairwise_cons.mpr ⟨hb, hp⟩⟩, ?_⟩
        · intro c hc
          rcases List.mem_cons.mp hc with rfl | hc
          · exact hab
          · exact lt_trans hab (hb c hc)
        · intro c hc
          rcases List.mem_cons.mp hc with rfl | hc
          · exact hv
          · exact hz c hc
    · split
      · rename_i hab
        split
        · exact hm
        · rename_i hv
          refine ⟨List.pairwise_cons.mpr ⟨fun c hc => hab ▸ hb c hc, hp⟩, ?_⟩
          intro c hc
          rcases List.mem_cons.mp hc with rfl | hc
          · exact hv
          · exact hm.2 c hc
      · rename_i h1 h2
        obtain ⟨ip, iz⟩ := ih hm
        refine ⟨List.pairwise_cons.mpr ⟨?_, ip⟩, ?_⟩
        · intro c hc
          rcases Memory.mem_write hc with ⟨rfl, -⟩ | hc
          · show b < a; omega
          · exact hb c hc
        · intro c hc
          rcases List.mem_cons.mp hc with rfl | hc
          · exact hz _ (by simp)
          · exact iz c hc

/-- Reading after a write to a canonical file: the written byte there, every other byte as before. -/
theorem Memory.read_write {m : Memory} (h : m.wf) (a : Nat) (v : Byte) (a' : Nat) :
    (m.write a v).read a' = if a' = a then v else m.read a' := by
  induction m with
  | nil =>
    simp only [Memory.write]
    split
    · rename_i hv; simp [hv]
    · simp [Memory.read_cons]
  | cons d m ih =>
    obtain ⟨b, w⟩ := d
    obtain ⟨hp, hz⟩ := h
    obtain ⟨hb, hp⟩ := List.pairwise_cons.mp hp
    have hm : Memory.wf m := ⟨hp, fun c hc => hz c (List.mem_cons_of_mem _ hc)⟩
    have habove : ∀ x, x ≤ b → Memory.read m x = 0x00#8 := fun x hx =>
      Memory.read_eq_zero_of_forall_ne fun c hc e => by have := hb c hc; simp only at this; omega
    simp only [Memory.write]
    split
    · rename_i hab
      split
      · rename_i hv
        simp only [Memory.read_cons]
        by_cases h1 : a' = a
        · subst h1
          rw [if_neg (by omega), if_pos rfl, habove a' (by omega), hv]
        · rw [if_neg h1]
      · simp only [Memory.read_cons]
    · split
      · rename_i hab
        subst hab
        split
        · rename_i hv
          simp only [Memory.read_cons]
          by_cases h1 : a' = a
          · subst h1
            rw [if_pos rfl, habove a' (by omega), hv]
          · rw [if_neg h1, if_neg h1]
        · simp only [Memory.read_cons]
          split <;> rfl
      · rename_i h1 h2
        simp only [Memory.read_cons, ih hm]
        by_cases h3 : a' = b
        · rw [if_pos h3, if_neg (by omega), if_pos h3]
        · rw [if_neg h3, if_neg h3]

/-- The bound of the register file is kept by a write below it. -/
theorem Memory.bound_write {m : Memory} {n a : Nat} {v : Byte} (h : ∀ c ∈ m, c.1 < n) (ha : a < n) :
    ∀ c ∈ m.write a v, c.1 < n := by
  intro c hc
  rcases Memory.mem_write hc with ⟨rfl, -⟩ | hc
  · exact ha
  · exact h c hc

theorem Memory.wf_nil : Memory.wf [] := ⟨List.Pairwise.nil, by simp⟩

theorem Memory.wf_writeBytes {m : Memory} (h : m.wf) (a : Nat) (bs : List Byte) : (m.writeBytes a bs).wf := by
  induction bs generalizing m a with
  | nil => exact h
  | cons b bs ih => exact ih (Memory.wf_write h a b) (a + 1)

theorem Memory.bound_writeBytes {m : Memory} {n a : Nat} {bs : List Byte} (h : ∀ c ∈ m, c.1 < n)
    (ha : a + bs.length ≤ n) : ∀ c ∈ m.writeBytes a bs, c.1 < n := by
  induction bs generalizing m a with
  | nil => exact h
  | cons b bs ih =>
    simp only [List.length_cons] at ha
    exact ih (Memory.bound_write h (by omega)) (by omega)

/-- Reading after a run of writes: the run's byte inside it, every other byte as before. -/
theorem Memory.read_writeBytes {m : Memory} (h : m.wf) (a : Nat) (bs : List Byte) (a' : Nat) :
    (m.writeBytes a bs).read a' =
      if a ≤ a' ∧ a' < a + bs.length then bs.getD (a' - a) 0x00#8 else m.read a' := by
  induction bs generalizing m a with
  | nil => simp only [Memory.writeBytes, List.length_nil]; rw [if_neg (by omega)]
  | cons b bs ih =>
    simp only [Memory.writeBytes, ih (Memory.wf_write h a b), Memory.read_write h, List.length_cons]
    by_cases h1 : a + 1 ≤ a' ∧ a' < a + 1 + bs.length
    · rw [if_pos h1, if_pos (by omega)]
      obtain ⟨k, hk⟩ : ∃ k, a' - a = k + 1 := ⟨a' - a - 1, by omega⟩
      rw [hk, show a' - (a + 1) = k by omega]
      rfl
    · rw [if_neg h1]
      by_cases h2 : a' = a
      · subst h2
        rw [if_pos rfl, if_pos (by omega), Nat.sub_self]
        rfl
      · rw [if_neg h2, if_neg (by omega)]

theorem Memory.wf_clear {m : Memory} (h : m.wf) (lo hi : Nat) : (m.clear lo hi).wf :=
  ⟨h.1.filter _, fun c hc => h.2 c (List.mem_of_mem_filter hc)⟩

theorem Memory.bound_clear {m : Memory} {n : Nat} (h : ∀ c ∈ m, c.1 < n) (lo hi : Nat) :
    ∀ c ∈ m.clear lo hi, c.1 < n := fun c hc => h c (List.mem_of_mem_filter hc)

/-- Reading after a clear: zero inside the range, every other byte as before. -/
theorem Memory.read_clear (m : Memory) (lo hi a : Nat) :
    (m.clear lo hi).read a = if lo ≤ a ∧ a < hi then 0x00#8 else m.read a := by
  induction m with
  | nil => simp [Memory.clear]
  | cons d m ih =>
    obtain ⟨b, w⟩ := d
    simp only [Memory.clear] at ih ⊢
    by_cases hb : lo ≤ b ∧ b < hi
    · rw [List.filter_cons_of_neg (by simp [hb.1, hb.2]), ih, Memory.read_cons]
      by_cases h1 : lo ≤ a ∧ a < hi
      · rw [if_pos h1, if_pos h1]
      · rw [if_neg h1, if_neg h1, if_neg (fun e => h1 (by subst e; exact hb))]
    · rw [List.filter_cons_of_pos (by simp; omega), Memory.read_cons, Memory.read_cons, ih]
      by_cases h1 : a = b
      · rw [if_pos h1, if_pos h1, if_neg (by subst h1; exact hb)]
      · rw [if_neg h1, if_neg h1]

/-- A file all of whose addresses lie in the range is empty after the clear. -/
theorem Memory.clear_all {m : Memory} {n : Nat} (h : ∀ c ∈ m, c.1 < n) : m.clear 0 n = [] := by
  simp only [Memory.clear, List.filter_eq_nil_iff]
  intro c hc
  simp [h c hc]

/-- `LE` depends on its own bytes only. -/
theorem Memory.le_congr {m m' : Memory} {a n : Nat} (h : ∀ k, k < n → m.read (a + k) = m'.read (a + k)) :
    m.le a n = m'.le a n := by
  induction n generalizing a with
  | zero => rfl
  | succ n ih =>
    simp only [Memory.le]
    rw [show m.read a = m'.read a from h 0 (by omega),
      ih fun k hk => by rw [show a + 1 + k = a + (k + 1) by omega]; exact h (k + 1) (by omega)]

/-- `LE` of `n` bytes is an `8n`-bit value. -/
theorem Memory.le_lt (m : Memory) (a n : Nat) : m.le a n < 256 ^ n := by
  induction n generalizing a with
  | zero => simp [Memory.le]
  | succ n ih =>
    simp only [Memory.le, pow_succ]
    have h1 := (m.read a).isLt
    have h2 := ih (a + 1)
    omega

/-- Equal canonical files: the canonical form is determined by what is read. -/
theorem Memory.ext_read {m m' : Memory} (h : m.wf) (h' : m'.wf) (hr : ∀ a, m.read a = m'.read a) : m = m' := by
  induction m generalizing m' with
  | nil =>
    cases m' with
    | nil => rfl
    | cons d m' =>
      have := hr d.1
      simp only [Memory.read, if_pos] at this
      exact absurd this.symm (h'.2 d (by simp))
  | cons c m ih =>
    cases m' with
    | nil =>
      have := hr c.1
      simp only [Memory.read, if_pos] at this
      exact absurd this (h.2 c (by simp))
    | cons d m' =>
      obtain ⟨b, w⟩ := c
      obtain ⟨b', w'⟩ := d
      obtain ⟨hb, hp⟩ := List.pairwise_cons.mp h.1
      obtain ⟨hb', hp'⟩ := List.pairwise_cons.mp h'.1
      have hm : Memory.wf m := ⟨hp, fun c hc => h.2 c (List.mem_cons_of_mem _ hc)⟩
      have hm' : Memory.wf m' := ⟨hp', fun c hc => h'.2 c (List.mem_cons_of_mem _ hc)⟩
      have lowm : ∀ x, x ≤ b → Memory.read m x = 0x00#8 := fun x hx =>
        Memory.read_eq_zero_of_forall_ne fun c hc e => by have := hb c hc; simp only at this; omega
      have lowm' : ∀ x, x ≤ b' → Memory.read m' x = 0x00#8 := fun x hx =>
        Memory.read_eq_zero_of_forall_ne fun c hc e => by have := hb' c hc; simp only at this; omega
      have hw : w ≠ 0x00#8 := h.2 (b, w) (by simp)
      have hw' : w' ≠ 0x00#8 := h'.2 (b', w') (by simp)
      have hbb : b = b' := by
        rcases lt_trichotomy b b' with hlt | he | hgt
        · have := hr b
          simp only [Memory.read_cons, if_pos, if_neg (show ¬ b = b' by omega)] at this
          exact absurd (this.trans (lowm' b (by omega))) hw
        · exact he
        · have := hr b'
          simp only [Memory.read_cons, if_pos, if_neg (show ¬ b' = b by omega)] at this
          exact absurd (this.symm.trans (lowm b' (by omega))) hw'
      subst hbb
      have hww : w = w' := by have := hr b; simpa [Memory.read_cons] using this
      subst hww
      rw [ih hm hm' fun a => ?_]
      have := hr a
      simp only [Memory.read_cons] at this
      by_cases h1 : a = b
      · rw [lowm a (by omega), lowm' a (by omega)]
      · simpa [h1] using this

end Sys2Proof.Machine
end

