-- ==== Sys2Proof/Laws/State.lean ====
section
/-! SUPPORT. One lemma per field per update of the state, so that no later proof unfolds a record update. -/

namespace Sys2Proof.Machine

@[simp] theorem State.clearOutputs_file (s : State) : s.clearOutputs.file = s.file := rfl
@[simp] theorem State.clearOutputs_op (s : State) : s.clearOutputs.op = s.op := rfl
@[simp] theorem State.clearOutputs_ap (s : State) : s.clearOutputs.ap = s.ap := rfl
@[simp] theorem State.clearOutputs_phase (s : State) : s.clearOutputs.phase = s.phase := rfl
@[simp] theorem State.clearOutputs_rtcOffset (s : State) : s.clearOutputs.rtcOffset = s.rtcOffset := rfl
@[simp] theorem State.clearOutputs_alarmDeadline (s : State) : s.clearOutputs.alarmDeadline = s.alarmDeadline := rfl
@[simp] theorem State.clearOutputs_irq (s : State) : s.clearOutputs.irq = s.irq := rfl
@[simp] theorem State.clearOutputs_cfg (s : State) : s.clearOutputs.cfg = s.cfg := rfl
@[simp] theorem State.clearOutputs_snapshot (s : State) : s.clearOutputs.snapshot = s.snapshot := rfl
@[simp] theorem State.clearOutputs_created (s : State) : s.clearOutputs.created = s.created := rfl
@[simp] theorem State.clearOutputs_now (s : State) : s.clearOutputs.now = s.now := rfl
@[simp] theorem State.clearOutputs_argSnapshot (s : State) : s.clearOutputs.argSnapshot = s.argSnapshot := rfl
@[simp] theorem State.clearOutputs_argCfg (s : State) : s.clearOutputs.argCfg = s.argCfg := rfl
@[simp] theorem State.clearOutputs_events (s : State) : s.clearOutputs.events = s.events := rfl
@[simp] theorem State.clearOutputs_resp (s : State) : s.clearOutputs.resp = none := rfl
@[simp] theorem State.clearOutputs_diag (s : State) : s.clearOutputs.diag = s.diag := rfl
@[simp] theorem State.clearOutputs_timer (s : State) : s.clearOutputs.timer = none := rfl

@[simp] theorem State.reportOutOfRange_file (s : State) (a : Nat) : (s.reportOutOfRange a).file = s.file := rfl
@[simp] theorem State.reportOutOfRange_op (s : State) (a : Nat) : (s.reportOutOfRange a).op = s.op := rfl
@[simp] theorem State.reportOutOfRange_ap (s : State) (a : Nat) : (s.reportOutOfRange a).ap = s.ap := rfl
@[simp] theorem State.reportOutOfRange_phase (s : State) (a : Nat) : (s.reportOutOfRange a).phase = s.phase := rfl
@[simp] theorem State.reportOutOfRange_rtcOffset (s : State) (a : Nat) :
    (s.reportOutOfRange a).rtcOffset = s.rtcOffset := rfl
@[simp] theorem State.reportOutOfRange_alarmDeadline (s : State) (a : Nat) :
    (s.reportOutOfRange a).alarmDeadline = s.alarmDeadline := rfl
@[simp] theorem State.reportOutOfRange_irq (s : State) (a : Nat) : (s.reportOutOfRange a).irq = s.irq := rfl
@[simp] theorem State.reportOutOfRange_cfg (s : State) (a : Nat) : (s.reportOutOfRange a).cfg = s.cfg := rfl
@[simp] theorem State.reportOutOfRange_snapshot (s : State) (a : Nat) :
    (s.reportOutOfRange a).snapshot = s.snapshot := rfl
@[simp] theorem State.reportOutOfRange_created (s : State) (a : Nat) :
    (s.reportOutOfRange a).created = s.created := rfl
@[simp] theorem State.reportOutOfRange_now (s : State) (a : Nat) : (s.reportOutOfRange a).now = s.now := rfl
@[simp] theorem State.reportOutOfRange_argSnapshot (s : State) (a : Nat) :
    (s.reportOutOfRange a).argSnapshot = s.argSnapshot := rfl
@[simp] theorem State.reportOutOfRange_argCfg (s : State) (a : Nat) : (s.reportOutOfRange a).argCfg = s.argCfg := rfl
@[simp] theorem State.reportOutOfRange_events (s : State) (a : Nat) : (s.reportOutOfRange a).events = s.events := rfl
@[simp] theorem State.reportOutOfRange_resp (s : State) (a : Nat) : (s.reportOutOfRange a).resp = s.resp := rfl
@[simp] theorem State.reportOutOfRange_diag (s : State) (a : Nat) :
    (s.reportOutOfRange a).diag = s.diag ++ [.outOfRange a] := rfl
@[simp] theorem State.reportOutOfRange_timer (s : State) (a : Nat) : (s.reportOutOfRange a).timer = s.timer := rfl

@[simp] theorem State.disarm_file (s : State) : s.disarm.file = s.file := rfl
@[simp] theorem State.disarm_op (s : State) : s.disarm.op = s.op := rfl
@[simp] theorem State.disarm_ap (s : State) : s.disarm.ap = s.ap := rfl
@[simp] theorem State.disarm_phase (s : State) : s.disarm.phase = s.phase := rfl
@[simp] theorem State.disarm_rtcOffset (s : State) : s.disarm.rtcOffset = s.rtcOffset := rfl
@[simp] theorem State.disarm_alarmDeadline (s : State) : s.disarm.alarmDeadline = none := rfl
@[simp] theorem State.disarm_irq (s : State) : s.disarm.irq = s.irq := rfl
@[simp] theorem State.disarm_cfg (s : State) : s.disarm.cfg = s.cfg := rfl
@[simp] theorem State.disarm_snapshot (s : State) : s.disarm.snapshot = s.snapshot := rfl
@[simp] theorem State.disarm_created (s : State) : s.disarm.created = s.created := rfl
@[simp] theorem State.disarm_now (s : State) : s.disarm.now = s.now := rfl
@[simp] theorem State.disarm_argSnapshot (s : State) : s.disarm.argSnapshot = s.argSnapshot := rfl
@[simp] theorem State.disarm_argCfg (s : State) : s.disarm.argCfg = s.argCfg := rfl
@[simp] theorem State.disarm_events (s : State) : s.disarm.events = s.events := rfl
@[simp] theorem State.disarm_resp (s : State) : s.disarm.resp = s.resp := rfl
@[simp] theorem State.disarm_diag (s : State) : s.disarm.diag = s.diag := rfl
@[simp] theorem State.disarm_timer (s : State) :
    s.disarm.timer = if s.alarmDeadline.isSome then some .cancel else s.timer := rfl

@[simp] theorem State.arm_file (s : State) (d : Nat) : (s.arm d).file = s.file := rfl
@[simp] theorem State.arm_op (s : State) (d : Nat) : (s.arm d).op = s.op := rfl
@[simp] theorem State.arm_ap (s : State) (d : Nat) : (s.arm d).ap = s.ap := rfl
@[simp] theorem State.arm_phase (s : State) (d : Nat) : (s.arm d).phase = s.phase := rfl
@[simp] theorem State.arm_rtcOffset (s : State) (d : Nat) : (s.arm d).rtcOffset = s.rtcOffset := rfl
@[simp] theorem State.arm_alarmDeadline (s : State) (d : Nat) : (s.arm d).alarmDeadline = some d := rfl
@[simp] theorem State.arm_irq (s : State) (d : Nat) : (s.arm d).irq = s.irq := rfl
@[simp] theorem State.arm_cfg (s : State) (d : Nat) : (s.arm d).cfg = s.cfg := rfl
@[simp] theorem State.arm_snapshot (s : State) (d : Nat) : (s.arm d).snapshot = s.snapshot := rfl
@[simp] theorem State.arm_created (s : State) (d : Nat) : (s.arm d).created = s.created := rfl
@[simp] theorem State.arm_now (s : State) (d : Nat) : (s.arm d).now = s.now := rfl
@[simp] theorem State.arm_argSnapshot (s : State) (d : Nat) : (s.arm d).argSnapshot = s.argSnapshot := rfl
@[simp] theorem State.arm_argCfg (s : State) (d : Nat) : (s.arm d).argCfg = s.argCfg := rfl
@[simp] theorem State.arm_events (s : State) (d : Nat) : (s.arm d).events = s.events := rfl
@[simp] theorem State.arm_resp (s : State) (d : Nat) : (s.arm d).resp = s.resp := rfl
@[simp] theorem State.arm_diag (s : State) (d : Nat) : (s.arm d).diag = s.diag := rfl
@[simp] theorem State.arm_timer (s : State) (d : Nat) : (s.arm d).timer = some (.arm d) := rfl

@[simp] theorem State.spend_file (s : State) : s.spend.file = s.file := rfl
@[simp] theorem State.spend_op (s : State) : s.spend.op = s.op := rfl
@[simp] theorem State.spend_ap (s : State) : s.spend.ap = s.ap := rfl
@[simp] theorem State.spend_phase (s : State) : s.spend.phase = s.phase := rfl
@[simp] theorem State.spend_rtcOffset (s : State) : s.spend.rtcOffset = s.rtcOffset := rfl
@[simp] theorem State.spend_alarmDeadline (s : State) : s.spend.alarmDeadline = none := rfl
@[simp] theorem State.spend_irq (s : State) : s.spend.irq = s.irq := rfl
@[simp] theorem State.spend_cfg (s : State) : s.spend.cfg = s.cfg := rfl
@[simp] theorem State.spend_snapshot (s : State) : s.spend.snapshot = s.snapshot := rfl
@[simp] theorem State.spend_created (s : State) : s.spend.created = s.created := rfl
@[simp] theorem State.spend_now (s : State) : s.spend.now = s.now := rfl
@[simp] theorem State.spend_argSnapshot (s : State) : s.spend.argSnapshot = s.argSnapshot := rfl
@[simp] theorem State.spend_argCfg (s : State) : s.spend.argCfg = s.argCfg := rfl
@[simp] theorem State.spend_events (s : State) : s.spend.events = s.events := rfl
@[simp] theorem State.spend_resp (s : State) : s.spend.resp = s.resp := rfl
@[simp] theorem State.spend_diag (s : State) : s.spend.diag = s.diag := rfl
@[simp] theorem State.spend_timer (s : State) : s.spend.timer = s.timer := rfl

@[simp] theorem State.irqReeval_file (s : State) : s.irqReeval.file = s.file := rfl
@[simp] theorem State.irqReeval_op (s : State) : s.irqReeval.op = s.op := rfl
@[simp] theorem State.irqReeval_ap (s : State) : s.irqReeval.ap = s.ap := rfl
@[simp] theorem State.irqReeval_phase (s : State) : s.irqReeval.phase = s.phase := rfl
@[simp] theorem State.irqReeval_rtcOffset (s : State) : s.irqReeval.rtcOffset = s.rtcOffset := rfl
@[simp] theorem State.irqReeval_alarmDeadline (s : State) : s.irqReeval.alarmDeadline = s.alarmDeadline := rfl
@[simp] theorem State.irqReeval_irq (s : State) : s.irqReeval.irq = irqLevel s.cfg s.file := rfl
@[simp] theorem State.irqReeval_cfg (s : State) : s.irqReeval.cfg = s.cfg := rfl
@[simp] theorem State.irqReeval_snapshot (s : State) : s.irqReeval.snapshot = s.snapshot := rfl
@[simp] theorem State.irqReeval_created (s : State) : s.irqReeval.created = s.created := rfl
@[simp] theorem State.irqReeval_now (s : State) : s.irqReeval.now = s.now := rfl
@[simp] theorem State.irqReeval_argSnapshot (s : State) : s.irqReeval.argSnapshot = s.argSnapshot := rfl
@[simp] theorem State.irqReeval_argCfg (s : State) : s.irqReeval.argCfg = s.argCfg := rfl
@[simp] theorem State.irqReeval_events (s : State) : s.irqReeval.events = s.events := rfl
@[simp] theorem State.irqReeval_resp (s : State) : s.irqReeval.resp = s.resp := rfl
@[simp] theorem State.irqReeval_diag (s : State) : s.irqReeval.diag = s.diag := rfl
@[simp] theorem State.irqReeval_timer (s : State) : s.irqReeval.timer = s.timer := rfl

@[simp] theorem State.materialize_file (s : State) :
    s.materialize.file = s.file.writeBytes s.cfg.clkAddr (pack7 s.currentTick) := rfl
@[simp] theorem State.materialize_op (s : State) : s.materialize.op = s.op := rfl
@[simp] theorem State.materialize_ap (s : State) : s.materialize.ap = s.ap := rfl
@[simp] theorem State.materialize_phase (s : State) : s.materialize.phase = s.phase := rfl
@[simp] theorem State.materialize_rtcOffset (s : State) : s.materialize.rtcOffset = s.rtcOffset := rfl
@[simp] theorem State.materialize_alarmDeadline (s : State) : s.materialize.alarmDeadline = s.alarmDeadline := rfl
@[simp] theorem State.materialize_irq (s : State) : s.materialize.irq = s.irq := rfl
@[simp] theorem State.materialize_cfg (s : State) : s.materialize.cfg = s.cfg := rfl
@[simp] theorem State.materialize_snapshot (s : State) : s.materialize.snapshot = s.snapshot := rfl
@[simp] theorem State.materialize_created (s : State) : s.materialize.created = s.created := rfl
@[simp] theorem State.materialize_now (s : State) : s.materialize.now = s.now := rfl
@[simp] theorem State.materialize_argSnapshot (s : State) : s.materialize.argSnapshot = s.argSnapshot := rfl
@[simp] theorem State.materialize_argCfg (s : State) : s.materialize.argCfg = s.argCfg := rfl
@[simp] theorem State.materialize_events (s : State) : s.materialize.events = s.events := rfl
@[simp] theorem State.materialize_resp (s : State) : s.materialize.resp = s.resp := rfl
@[simp] theorem State.materialize_diag (s : State) : s.materialize.diag = s.diag := rfl
@[simp] theorem State.materialize_timer (s : State) : s.materialize.timer = s.timer := rfl

@[simp] theorem State.idleBus_file (s : State) : s.idleBus.file = s.file := rfl
@[simp] theorem State.idleBus_op (s : State) : s.idleBus.op = .none := rfl
@[simp] theorem State.idleBus_ap (s : State) : s.idleBus.ap = 0#16 := rfl
@[simp] theorem State.idleBus_phase (s : State) : s.idleBus.phase = .awaitingHighByte := rfl
@[simp] theorem State.idleBus_rtcOffset (s : State) : s.idleBus.rtcOffset = s.rtcOffset := rfl
@[simp] theorem State.idleBus_alarmDeadline (s : State) : s.idleBus.alarmDeadline = s.alarmDeadline := rfl
@[simp] theorem State.idleBus_irq (s : State) : s.idleBus.irq = s.irq := rfl
@[simp] theorem State.idleBus_cfg (s : State) : s.idleBus.cfg = s.cfg := rfl
@[simp] theorem State.idleBus_snapshot (s : State) : s.idleBus.snapshot = s.snapshot := rfl
@[simp] theorem State.idleBus_created (s : State) : s.idleBus.created = s.created := rfl
@[simp] theorem State.idleBus_now (s : State) : s.idleBus.now = s.now := rfl
@[simp] theorem State.idleBus_argSnapshot (s : State) : s.idleBus.argSnapshot = s.argSnapshot := rfl
@[simp] theorem State.idleBus_argCfg (s : State) : s.idleBus.argCfg = s.argCfg := rfl
@[simp] theorem State.idleBus_events (s : State) : s.idleBus.events = s.events := rfl
@[simp] theorem State.idleBus_resp (s : State) : s.idleBus.resp = s.resp := rfl
@[simp] theorem State.idleBus_diag (s : State) : s.idleBus.diag = s.diag := rfl
@[simp] theorem State.idleBus_timer (s : State) : s.idleBus.timer = s.timer := rfl

@[simp] theorem State.alarmFire_file (s : State) :
    s.alarmFire.file = s.file.write (alarmEventAddr s.cfg) (s.file.read (alarmEventAddr s.cfg) ||| s.cfg.alarmEvtMask) := rfl
@[simp] theorem State.alarmFire_op (s : State) : s.alarmFire.op = s.op := rfl
@[simp] theorem State.alarmFire_ap (s : State) : s.alarmFire.ap = s.ap := rfl
@[simp] theorem State.alarmFire_phase (s : State) : s.alarmFire.phase = s.phase := rfl
@[simp] theorem State.alarmFire_rtcOffset (s : State) : s.alarmFire.rtcOffset = s.rtcOffset := rfl
@[simp] theorem State.alarmFire_alarmDeadline (s : State) : s.alarmFire.alarmDeadline = s.alarmDeadline := rfl
theorem State.alarmFire_irq (s : State) : s.alarmFire.irq = irqLevel s.cfg s.alarmFire.file := rfl
@[simp] theorem State.alarmFire_cfg (s : State) : s.alarmFire.cfg = s.cfg := rfl
@[simp] theorem State.alarmFire_snapshot (s : State) : s.alarmFire.snapshot = s.snapshot := rfl
@[simp] theorem State.alarmFire_created (s : State) : s.alarmFire.created = s.created := rfl
@[simp] theorem State.alarmFire_now (s : State) : s.alarmFire.now = s.now := rfl
@[simp] theorem State.alarmFire_argSnapshot (s : State) : s.alarmFire.argSnapshot = s.argSnapshot := rfl
@[simp] theorem State.alarmFire_argCfg (s : State) : s.alarmFire.argCfg = s.argCfg := rfl
@[simp] theorem State.alarmFire_events (s : State) : s.alarmFire.events = s.events := rfl
@[simp] theorem State.alarmFire_resp (s : State) : s.alarmFire.resp = s.resp := rfl
@[simp] theorem State.alarmFire_diag (s : State) : s.alarmFire.diag = s.diag := rfl
@[simp] theorem State.alarmFire_timer (s : State) : s.alarmFire.timer = s.timer := rfl

@[simp] theorem State.accept_file (s : State) (e : Event) (rest : List Event) : (s.accept e rest).file = s.file := rfl
@[simp] theorem State.accept_op (s : State) (e : Event) (rest : List Event) : (s.accept e rest).op = s.op := rfl
@[simp] theorem State.accept_ap (s : State) (e : Event) (rest : List Event) : (s.accept e rest).ap = s.ap := rfl
@[simp] theorem State.accept_phase (s : State) (e : Event) (rest : List Event) :
    (s.accept e rest).phase = s.phase := rfl
@[simp] theorem State.accept_rtcOffset (s : State) (e : Event) (rest : List Event) :
    (s.accept e rest).rtcOffset = s.rtcOffset := rfl
@[simp] theorem State.accept_alarmDeadline (s : State) (e : Event) (rest : List Event) :
    (s.accept e rest).alarmDeadline = s.alarmDeadline := rfl
@[simp] theorem State.accept_irq (s : State) (e : Event) (rest : List Event) : (s.accept e rest).irq = s.irq := rfl
@[simp] theorem State.accept_cfg (s : State) (e : Event) (rest : List Event) : (s.accept e rest).cfg = s.cfg := rfl
@[simp] theorem State.accept_snapshot (s : State) (e : Event) (rest : List Event) :
    (s.accept e rest).snapshot = s.snapshot := rfl
@[simp] theorem State.accept_created (s : State) (e : Event) (rest : List Event) :
    (s.accept e rest).created = s.created := rfl
@[simp] theorem State.accept_now (s : State) (e : Event) (rest : List Event) : (s.accept e rest).now = e.now := rfl
@[simp] theorem State.accept_argSnapshot (s : State) (e : Event) (rest : List Event) :
    (s.accept e rest).argSnapshot = e.snapshot := rfl
@[simp] theorem State.accept_argCfg (s : State) (e : Event) (rest : List Event) :
    (s.accept e rest).argCfg = e.cfg := rfl
@[simp] theorem State.accept_events (s : State) (e : Event) (rest : List Event) :
    (s.accept e rest).events = rest := rfl
@[simp] theorem State.accept_resp (s : State) (e : Event) (rest : List Event) : (s.accept e rest).resp = s.resp := rfl
@[simp] theorem State.accept_diag (s : State) (e : Event) (rest : List Event) : (s.accept e rest).diag = s.diag := rfl
@[simp] theorem State.accept_timer (s : State) (e : Event) (rest : List Event) :
    (s.accept e rest).timer = s.timer := rfl

end Sys2Proof.Machine
end

