-- ==== Sys2Proof/Laws/Ops.lean ====
section
/-! SUPPORT. One lemma per shared operation that says once everything it can do. -/

namespace Sys2Proof.Machine

/-! ## How a handler begins and ends -/

/-- A live instance's event is handled, with the outputs of the step before gone. -/
theorem State.admitted_of_live {s : State} (h : s.Live) (k : State → Result) : s.admitted k = k s.clearOutputs := by
  simp [State.admitted, h.1, Nat.not_lt.mpr h.2]

/-- An event that is handled met a live instance. -/
theorem State.admitted_next {s t : State} {k : State → Result} (h : s.admitted k = .next t) :
    s.Live ∧ k s.clearOutputs = .next t := by
  simp only [State.admitted] at h
  split at h
  · cases h
  · split at h
    · cases h
    · exact ⟨⟨by simpa using ‹¬s.created = false›, Nat.not_lt.mp ‹_›⟩, h⟩

/-- Before CREATE nothing but CREATE is handled. -/
theorem State.admitted_of_not_created {s : State} (h : s.created = false) (k : State → Result) :
    s.admitted k = .refused .beforeCreate := by
  simp [State.admitted, h]

theorem State.ok_next {s t : State} {b : Byte} (h : s.ok b = .next t) : t = { s with resp := some (.ok b) } := by
  cases h; rfl

theorem State.reject_next {s t : State} {c : Cause} (h : s.reject c = .next t) :
    t = { s with resp := some (.rej c), diag := s.diag ++ [.rejection c s.ap s.op s.phase] } := by
  cases h; rfl

theorem State.silent_next {s t : State} (h : s.silent = .next t) : t = s := by
  cases h; rfl

/-! ## The bounds-checked Register File operations -/

theorem State.memRead_of_lt {s : State} {a : Nat} (h : a < s.cfg.regSize) : s.memRead a = (s.file.read a, s) := by
  simp [State.memRead, Nat.not_le.mpr h]

theorem State.memWrite_of_lt {s : State} {a : Nat} (h : a < s.cfg.regSize) (v : Byte) :
    s.memWrite a v = { s with file := s.file.write a v } := by
  simp [State.memWrite, Nat.not_le.mpr h]

/-- A fill that stays in bounds writes its bytes and nothing else. -/
theorem State.fill_of_le {s : State} {lo n : Nat} (h : lo + n ≤ s.cfg.regSize) (v : Byte) :
    s.fill lo n v = { s with file := s.file.writeBytes lo (List.replicate n v) } := by
  induction n generalizing s lo with
  | zero => rfl
  | succ n ih =>
    simp only [State.fill, List.replicate_succ, Memory.writeBytes]
    rw [State.memWrite_of_lt (by omega), ih (by simpa using (by omega : lo + 1 + n ≤ s.cfg.regSize))]

/-- A rewrite that stays in bounds writes its bytes and nothing else. -/
theorem State.memWriteBytes_of_le {s : State} {a : Nat} {bs : List Byte} (h : a + bs.length ≤ s.cfg.regSize) :
    s.memWriteBytes a bs = { s with file := s.file.writeBytes a bs } := by
  induction bs generalizing s a with
  | nil => rfl
  | cons b bs ih =>
    simp only [List.length_cons] at h
    simp only [State.memWriteBytes, Memory.writeBytes]
    rw [State.memWrite_of_lt (by omega), ih (by simpa using (by omega : a + 1 + bs.length ≤ s.cfg.regSize))]

/-- A clear of a range in bounds zeroes it and reports nothing. -/
theorem State.clear_of_le {s : State} {lo n : Nat} (h : lo + n ≤ s.cfg.regSize) :
    s.clear lo n = { s with file := s.file.clear lo (lo + n) } := by
  have h0 : lo + n - max lo s.cfg.regSize = 0 := by omega
  simp [State.clear, h0, Nat.min_eq_left h]

/-! ## The interrupt line -/

/-- IRQ_REEVAL's level: some enabled event bit is set (R190). -/
theorem irqLevel_iff (c : Config) (m : Memory) :
    irqLevel c m = true ↔ ∃ i, i < c.irqLen ∧ m.read (c.maskAddr + i) &&& m.read (c.eventAddr + i) ≠ 0x00#8 := by
  simp [irqLevel, List.any_eq_true]

/-- The level depends on the mask and event registers only. -/
theorem irqLevel_congr {c : Config} {m m' : Memory}
    (h : ∀ i, i < c.irqLen →
      m.read (c.maskAddr + i) = m'.read (c.maskAddr + i) ∧ m.read (c.eventAddr + i) = m'.read (c.eventAddr + i)) :
    irqLevel c m = irqLevel c m' := by
  rw [Bool.eq_iff_iff, irqLevel_iff, irqLevel_iff]
  constructor <;> rintro ⟨i, hi, hb⟩ <;> refine ⟨i, hi, ?_⟩
  · rwa [← (h i hi).1, ← (h i hi).2]
  · rwa [(h i hi).1, (h i hi).2]

/-! ## The named ranges of an address -/

theorem inRange_iff (base len a : Nat) : inRange base len a = true ↔ base ≤ a ∧ a < base + len := by
  simp [inRange]

theorem touchesAlarm_iff (c : Config) (a : Nat) :
    touchesAlarm c a = true ↔ a = c.ctrlAddr ∨ (c.alarmAddr ≤ a ∧ a < c.alarmAddr + c.alarmLen) := by
  simp [touchesAlarm, inRange]

theorem touchesIrq_iff (c : Config) (a : Nat) :
    touchesIrq c a = true ↔
      c.irqReevalOnWrite = true ∧
        ((c.maskAddr ≤ a ∧ a < c.maskAddr + c.irqLen) ∨ (c.eventAddr ≤ a ∧ a < c.eventAddr + c.irqLen)) := by
  simp [touchesIrq, inRange]

theorem inClockWindow_iff (c : Config) (a : Nat) :
    inClockWindow c a = true ↔ c.clkAddr ≤ a ∧ a < c.clkAddr + 7 := by
  rw [inClockWindow, inRange_iff]
  rfl

theorem State.apInBounds_iff (s : State) : s.apInBounds = true ↔ s.ap.toNat < s.cfg.regSize := by
  simp [State.apInBounds]

/-! ## The address pointer -/

theorem nextAddr_toNat (ap : Addr) : (nextAddr ap).toNat = (ap.toNat + 1) % 65536 := by
  simp [nextAddr, BitVec.toNat_add]

theorem withHighByte_toNat (ap : Addr) (d : Byte) :
    (withHighByte ap d).toNat = 256 * d.toNat + ap.toNat % 256 := by
  have h := (ap.extractLsb' 0 8).isLt
  simp only [withHighByte, BitVec.toNat_append]
  rw [← Nat.shiftLeft_add_eq_or_of_lt h, Nat.shiftLeft_eq, BitVec.extractLsb'_toNat, Nat.shiftRight_zero]
  omega

theorem withLowByte_toNat (ap : Addr) (d : Byte) :
    (withLowByte ap d).toNat = 256 * (ap.toNat / 256) + d.toNat := by
  have h := d.isLt
  have h2 := ap.isLt
  simp only [withLowByte, BitVec.toNat_append]
  rw [← Nat.shiftLeft_add_eq_or_of_lt h, Nat.shiftLeft_eq, BitVec.extractLsb'_toNat, Nat.shiftRight_eq_div_pow]
  omega

theorem deliveredByte_of_lt {d : Nat} (h : d < 256) : deliveredByte d = some (BitVec.ofNat 8 d) := by
  simp [deliveredByte, h]

theorem deliveredByte_of_ge {d : Nat} (h : 256 ≤ d) : deliveredByte d = none := by
  simp [deliveredByte, Nat.not_lt.mpr h]

end Sys2Proof.Machine
end

