-- ==== Sys2Proof/Laws/Alarm.lean ====
section
/-! SUPPORT. What the alarm scheduler's operations can do (43_alarm_scheduler.md R170 to R173), said once. -/

namespace Sys2Proof.Machine

/-- In a well-formed configuration an address that triggers ALARM_REEVAL lies in neither interrupt register. -/
theorem not_irq_of_touchesAlarm {c : Config} (h : c.wellFormed = true) {a : Nat} (ha : touchesAlarm c a = true) :
    ¬ (c.maskAddr ≤ a ∧ a < c.maskAddr + c.irqLen) ∧ ¬ (c.eventAddr ≤ a ∧ a < c.eventAddr + c.irqLen) := by
  obtain ⟨-, -, -, -, d1, d2, -, -, d3, d4, -⟩ := Config.apart_of_wellFormed h
  simp only [disjointRanges] at d1 d2 d3 d4
  rw [touchesAlarm_iff] at ha
  rcases ha with rfl | ha
  · exact ⟨by clear d2 d3 d4; omega, by clear d1 d2 d4; omega⟩
  · exact ⟨by clear d1 d3 d4; omega, by clear d1 d2 d3; omega⟩

/-- The alarm-event byte lies in the event register (R32). -/
theorem alarmEventAddr_mem {c : Config} (h : c.wellFormed = true) :
    c.eventAddr ≤ alarmEventAddr c ∧ alarmEventAddr c < c.eventAddr + c.irqLen := by
  have := (Config.irq_of_wellFormed h).2
  simp only [alarmEventAddr]
  omega

/-- The alarm-event byte is no control register and lies in neither the alarm field nor the mask register nor the
live-clock window. -/
theorem alarmEventAddr_apart {c : Config} (h : c.wellFormed = true) :
    alarmEventAddr c ≠ c.ctrlAddr ∧
    ¬ (c.alarmAddr ≤ alarmEventAddr c ∧ alarmEventAddr c < c.alarmAddr + c.alarmLen) ∧
    ¬ (c.maskAddr ≤ alarmEventAddr c ∧ alarmEventAddr c < c.maskAddr + c.irqLen) ∧
    ¬ (c.clkAddr ≤ alarmEventAddr c ∧ alarmEventAddr c < c.clkAddr + 7) := by
  have he := alarmEventAddr_mem h
  obtain ⟨-, -, -, d0, -, -, -, -, d3, d4, d5, -⟩ := Config.apart_of_wellFormed h
  simp only [disjointRanges] at d0 d3 d4 d5
  exact ⟨by clear d0 d4 d5; omega, by clear d0 d3 d5; omega, by clear d3 d4 d5; omega, by clear d0 d3 d4; omega⟩

/-- The live-clock window holds neither an interrupt register nor the control register nor an alarm byte. -/
theorem clockWindow_apart {c : Config} (h : c.wellFormed = true) {a : Nat} (ha : c.clkAddr ≤ a ∧ a < c.clkAddr + 7) :
    ¬ (c.maskAddr ≤ a ∧ a < c.maskAddr + c.irqLen) ∧ ¬ (c.eventAddr ≤ a ∧ a < c.eventAddr + c.irqLen) ∧
    a ≠ c.ctrlAddr ∧ ¬ (c.alarmAddr ≤ a ∧ a < c.alarmAddr + c.alarmLen) := by
  obtain ⟨-, -, -, -, -, -, d1, -, -, -, d2, -, -, d3, d4⟩ := Config.apart_of_wellFormed h
  simp only [disjointRanges] at d1 d2 d3 d4
  exact ⟨by clear d2 d3 d4; omega, by clear d1 d3 d4; omega, by clear d1 d2 d4; omega, by clear d1 d2 d3; omega⟩

/-- The coarse seconds as a number (R152). -/
theorem State.coarseSecs_eq (s : State) : s.coarseSecs = (s.now - s.rtcOffset) / 1000000000 % 2 ^ 49 :=
  tickWith_secs (subTicksOf_lt _ _)

/-- R171: `target_seconds` fits in `ALARM_ARITH_BITS` bits. -/
theorem State.targetSeconds_lt (s : State) : s.targetSeconds < 2 ^ s.cfg.alarmArithBits := by
  have h0 : (0 : Int) < ((2 ^ s.cfg.alarmArithBits : Nat) : Int) := by exact_mod_cast Nat.two_pow_pos _
  have h1 := Int.emod_lt_of_pos ((s.alarmTarget : Int) - s.coarseSecs) h0
  have h2 := Int.emod_nonneg ((s.alarmTarget : Int) - s.coarseSecs) (ne_of_gt h0)
  simp only [State.targetSeconds]
  omega

/-- R171 for a target not in the past whose distance fits: the plain difference. -/
theorem State.targetSeconds_of_le {s : State} (h : s.coarseSecs ≤ s.alarmTarget)
    (hb : s.alarmTarget - s.coarseSecs < 2 ^ s.cfg.alarmArithBits) :
    s.targetSeconds = s.alarmTarget - s.coarseSecs := by
  simp only [State.targetSeconds]
  rw [Int.emod_eq_of_lt (by omega) (by omega)]
  omega

/-- R171 for a past target whose distance fits: the difference wraps. -/
theorem State.targetSeconds_of_gt {s : State} (h : s.alarmTarget < s.coarseSecs)
    (hb : s.coarseSecs - s.alarmTarget ≤ 2 ^ s.cfg.alarmArithBits) :
    s.targetSeconds = 2 ^ s.cfg.alarmArithBits - (s.coarseSecs - s.alarmTarget) := by
  have h0 : (0 : Int) < ((2 ^ s.cfg.alarmArithBits : Nat) : Int) := by exact_mod_cast Nat.two_pow_pos _
  simp only [State.targetSeconds]
  rw [← Int.add_emod_right, Int.emod_eq_of_lt (by omega) (by omega)]
  omega

/-- ALARM_REEVAL (R170) is one of three: disarm, fire at once, arm. -/
theorem State.alarmReeval_cases (s : State) :
    (s.alarmEnabled = false ∧ s.alarmReeval = s.disarm) ∨
    (s.alarmEnabled = true ∧ s.targetSeconds = 0 ∧ s.alarmReeval = s.disarm.alarmFire) ∨
    (s.alarmEnabled = true ∧ 1 ≤ s.targetSeconds ∧
      s.alarmReeval = s.arm (s.now + s.targetSeconds * nsPerSec)) := by
  simp only [State.alarmReeval]
  by_cases h1 : s.alarmEnabled = false
  · exact .inl ⟨h1, if_pos h1⟩
  · have h1' : s.alarmEnabled = true := by simpa using h1
    rw [if_neg h1]
    by_cases h2 : s.targetSeconds = 0
    · exact .inr (.inl ⟨h1', h2, if_pos h2⟩)
    · exact .inr (.inr ⟨h1', by omega, if_neg h2⟩)

/-- ALARM_REEVAL and IRQ_REEVAL touch nothing but the register file, the deadline, the line and the notification. -/
theorem State.afterStore_frame (s : State) (a : Nat) :
    s.afterStore a =
      { s with
        file := (s.afterStore a).file, alarmDeadline := (s.afterStore a).alarmDeadline
        irq := (s.afterStore a).irq, timer := (s.afterStore a).timer } := by
  simp only [State.afterStore]
  rcases s.alarmReeval_cases with ⟨-, h⟩ | ⟨-, -, h⟩ | ⟨-, -, h⟩ <;> rw [h] <;>
    by_cases h1 : touchesAlarm s.cfg a = true <;> simp only [h1, if_true, if_false, Bool.false_eq_true] <;>
    split <;> rfl

/-- What the side effects of a stored byte do to the register file: nothing, or ALARM_FIRE's OR. -/
theorem State.afterStore_file (s : State) (a : Nat) :
    (s.afterStore a).file = s.file ∨
      (touchesAlarm s.cfg a = true ∧ s.alarmEnabled = true ∧ s.targetSeconds = 0 ∧
        (s.afterStore a).file = s.alarmFire.file) := by
  simp only [State.afterStore]
  by_cases h1 : touchesAlarm s.cfg a = true
  · rcases s.alarmReeval_cases with ⟨-, h⟩ | ⟨h2, h3, h⟩ | ⟨-, -, h⟩ <;> rw [h] <;> simp only [h1, if_true]
    · exact .inl (by split <;> rfl)
    · exact .inr ⟨trivial, h2, h3, by split <;> rfl⟩
    · exact .inl (by split <;> rfl)
  · exact .inl (by simp only [h1, if_false, Bool.false_eq_true]; split <;> rfl)

end Sys2Proof.Machine
end

