-- ==== Sys2Proof/Laws/Exec.lean ====
section
/-! SUPPORT. One inversion lemma per event: if it answers next, then one of these cases holds. -/

namespace Sys2Proof.Machine

theorem State.reject_clearOutputs (s : State) (c : Cause) : s.clearOutputs.reject c = .next (s.rejected c) := rfl

theorem execSr_next {s t : State} (h : execSr s = .next t) :
    s.Live ∧ ((s.op = .none ∧ t = { s with op := .reading, resp := some (.ok 0x00#8), timer := none }) ∨
      (s.op ≠ .none ∧ t = s.rejected .startReadBusy)) := by
  obtain ⟨hl, h⟩ := State.admitted_next h
  refine ⟨hl, ?_⟩
  by_cases h1 : s.op = .none
  · simp only [State.clearOutputs_op, h1, ne_eq, not_true_eq_false, if_false] at h
    exact .inl ⟨h1, State.ok_next h⟩
  · simp only [State.clearOutputs_op, h1, ne_eq, not_false_eq_true, if_true] at h
    exact .inr ⟨h1, State.reject_next h⟩

theorem execSw_next {s t : State} (h : execSw s = .next t) :
    s.Live ∧ ((s.op = .none ∧
        t = { s with op := .writing, ap := 0#16, phase := .awaitingHighByte, resp := some (.ok 0x00#8), timer := none }) ∨
      (s.op ≠ .none ∧ t = s.rejected .startWriteBusy)) := by
  obtain ⟨hl, h⟩ := State.admitted_next h
  refine ⟨hl, ?_⟩
  by_cases h1 : s.op = .none
  · simp only [State.clearOutputs_op, h1, ne_eq, not_true_eq_false, if_false] at h
    exact .inl ⟨h1, State.ok_next h⟩
  · simp only [State.clearOutputs_op, h1, ne_eq, not_false_eq_true, if_true] at h
    exact .inr ⟨h1, State.reject_next h⟩

theorem execSwa_next {s t : State} (h : execSwa s = .next t) : s.Live ∧ t = s.rejected .asyncUnsupported := by
  obtain ⟨hl, h⟩ := State.admitted_next h
  cases h
  exact ⟨hl, rfl⟩

theorem execFin_next {s t : State} (h : execFin s = .next t) :
    s.Live ∧ t = { s with op := .none, resp := some (.ok 0x00#8), timer := none } := by
  obtain ⟨hl, h⟩ := State.admitted_next h
  cases h
  exact ⟨hl, rfl⟩

theorem execNak_next {s t : State} (h : execNak s = .next t) : s.Live ∧ t = s.rejected .nack := by
  obtain ⟨hl, h⟩ := State.admitted_next h
  cases h
  exact ⟨hl, rfl⟩

/-- The register file a read at `ap` finds (R130): materialised in the window, as it is elsewhere. -/
def State.readFile (s : State) : Memory :=
  if inClockWindow s.cfg s.ap.toNat then s.file.writeBytes s.cfg.clkAddr (pack7 s.currentTick) else s.file

/-- The performed `RX` (R130). -/
def State.afterRead (s : State) : State :=
  { s with
    file := s.readFile, ap := nextAddr s.ap
    resp := some (.ok (s.readFile.read s.ap.toNat)), timer := none }

theorem State.preRead_clearOutputs (s : State) :
    s.clearOutputs.preRead = { s with file := s.readFile, resp := none, timer := none } := by
  by_cases h : inClockWindow s.cfg s.ap.toNat = true
  · have h' : inClockWindow s.clearOutputs.cfg s.clearOutputs.ap.toNat = true := h
    simp only [State.preRead, State.readFile, h, h', if_true]
    rfl
  · have h' : ¬ inClockWindow s.clearOutputs.cfg s.clearOutputs.ap.toNat = true := h
    simp only [State.preRead, State.readFile, if_neg h, if_neg h']
    rfl

theorem State.readByte_eq {s : State} (h : s.ap.toNat < s.cfg.regSize) : s.clearOutputs.readByte = .next s.afterRead := by
  have h' : s.clearOutputs.preRead.memRead s.clearOutputs.ap.toNat =
      (s.readFile.read s.ap.toNat, { s with file := s.readFile, resp := none, timer := none }) := by
    rw [State.preRead_clearOutputs]
    exact State.memRead_of_lt h
  simp only [State.readByte, h']
  rfl

theorem execRx_next {s t : State} (h : execRx s = .next t) :
    s.Live ∧ ((s.op ≠ .reading ∧ t = s.rejected .rxNotReading) ∨
      (s.op = .reading ∧ s.phase ≠ .addressComplete ∧ t = s.rejected .rxNoAddress) ∨
      (s.op = .reading ∧ s.phase = .addressComplete ∧ s.cfg.regSize ≤ s.ap.toNat ∧ t = s.rejected .rxOutOfRange) ∨
      (s.op = .reading ∧ s.phase = .addressComplete ∧ s.ap.toNat < s.cfg.regSize ∧ t = s.afterRead)) := by
  obtain ⟨hl, h⟩ := State.admitted_next h
  refine ⟨hl, ?_⟩
  simp only [State.clearOutputs_op, State.clearOutputs_phase] at h
  by_cases h1 : s.op = .reading
  · by_cases h2 : s.phase = .addressComplete
    · by_cases h3 : s.ap.toNat < s.cfg.regSize
      · have hb : s.clearOutputs.apInBounds = true := (State.apInBounds_iff _).mpr h3
        simp only [h1, h2, hb, ne_eq, not_true_eq_false, if_false, Bool.true_eq_false, State.readByte_eq h3] at h
        cases h
        exact .inr (.inr (.inr ⟨h1, h2, h3, rfl⟩))
      · have hb : s.clearOutputs.apInBounds = false := decide_eq_false h3
        simp only [h1, h2, hb, ne_eq, not_true_eq_false, if_false, if_true] at h
        exact .inr (.inr (.inl ⟨h1, h2, by omega, State.reject_next h⟩))
    · simp only [h1, h2, ne_eq, not_true_eq_false, if_false, not_false_eq_true, if_true] at h
      exact .inr (.inl ⟨h1, h2, State.reject_next h⟩)
  · simp only [h1, ne_eq, not_false_eq_true, if_true] at h
    exact .inl ⟨h1, State.reject_next h⟩

/-- The state in which the side effects of a stored byte run (R135): the byte stored, `ap` advanced. -/
def State.stored (s : State) (d : Byte) : State :=
  { s with file := s.file.write s.ap.toNat d, ap := nextAddr s.ap, resp := none, timer := none }

/-- The performed `TX` data byte (R135). -/
def State.afterData (s : State) (d : Byte) : State :=
  { (s.stored d).afterStore s.ap.toNat with resp := some (.ok 0x00#8) }

theorem State.storeByte_eq {s : State} (h : s.ap.toNat < s.cfg.regSize) (d : Byte) :
    s.clearOutputs.storeByte d = .next (s.afterData d) := by
  simp only [State.storeByte, State.clearOutputs_ap]
  rw [State.memWrite_of_lt (by simpa using h)]
  rfl

theorem execTx_next {d : Nat} {s t : State} (h : execTx d s = .next t) :
    s.Live ∧ d < 256 ∧
      ((s.phase = .awaitingHighByte ∧
          t = { s with
                ap := withHighByte s.ap (BitVec.ofNat 8 d), phase := .awaitingLowByte
                resp := some (.ok 0x00#8), timer := none }) ∨
       (s.phase = .awaitingLowByte ∧
          t = { s with
                ap := withLowByte s.ap (BitVec.ofNat 8 d), phase := .addressComplete
                resp := some (.ok 0x00#8), timer := none }) ∨
       (s.phase = .addressComplete ∧ s.op ≠ .writing ∧ t = s.rejected .txNotWriting) ∨
       (s.phase = .addressComplete ∧ s.op = .writing ∧ s.cfg.regSize ≤ s.ap.toNat ∧ t = s.rejected .txOutOfRange) ∨
       (s.phase = .addressComplete ∧ s.op = .writing ∧ s.ap.toNat < s.cfg.regSize ∧
          t = s.afterData (BitVec.ofNat 8 d))) := by
  obtain ⟨hl, h⟩ := State.admitted_next h
  have hd : d < 256 := by
    by_contra hd
    rw [deliveredByte_of_ge (by omega)] at h
    cases h
  refine ⟨hl, hd, ?_⟩
  rw [deliveredByte_of_lt hd] at h
  simp only [State.clearOutputs_phase] at h
  split at h
  · cases h; exact .inl ⟨‹_›, rfl⟩
  · cases h; exact .inr (.inl ⟨‹_›, rfl⟩)
  · rename_i hp
    simp only [State.takeData, State.clearOutputs_op] at h
    by_cases h1 : s.op = .writing
    · by_cases h3 : s.ap.toNat < s.cfg.regSize
      · have hb : s.clearOutputs.apInBounds = true := (State.apInBounds_iff _).mpr h3
        simp only [h1, hb, ne_eq, not_true_eq_false, if_false, Bool.true_eq_false, State.storeByte_eq h3] at h
        cases h
        exact .inr (.inr (.inr (.inr ⟨hp, h1, h3, rfl⟩)))
      · have hb : s.clearOutputs.apInBounds = false := decide_eq_false h3
        simp only [h1, hb, ne_eq, not_true_eq_false, if_false, if_true] at h
        exact .inr (.inr (.inr (.inl ⟨hp, h1, by omega, State.reject_next h⟩)))
    · simp only [h1, ne_eq, not_false_eq_true, if_true] at h
      exact .inr (.inr (.inl ⟨hp, h1, State.reject_next h⟩))

theorem execReset_next {s t : State} (h : execReset s = .next t) :
    s.Live ∧ t = s.clearOutputs.idleBus.resetFile.resetAlarm.resetIrq := by
  obtain ⟨hl, h⟩ := State.admitted_next h
  exact ⟨hl, State.silent_next h⟩

theorem execExpire_next {s t : State} (h : execExpire s = .next t) :
    s.Live ∧ ∃ d, s.alarmDeadline = some d ∧ d ≤ s.now ∧ t = s.clearOutputs.spend.alarmFire := by
  obtain ⟨hl, h⟩ := State.admitted_next h
  refine ⟨hl, ?_⟩
  simp only [State.clearOutputs_alarmDeadline] at h
  split at h
  · cases h
  · rename_i d hd
    split at h
    · cases h
    · exact ⟨d, hd, Nat.not_lt.mp ‹_›, State.silent_next h⟩

theorem execCreate_next {s t : State} (h : execCreate s = .next t) : s.Creatable ∧ t = s.createdFrom := by
  simp only [execCreate] at h
  split at h
  · cases h
  · split at h
    · cases h
    · split at h
      · cases h
      · exact ⟨⟨by simpa using ‹¬s.created = true›, by simpa using ‹¬s.argCfg.wellFormed = false›, not_not.mp ‹_›⟩,
          State.silent_next h⟩

/-- A fill touches nothing but the register file and the diagnostic stream. -/
theorem State.fill_frame (s : State) (lo n : Nat) (v : Byte) :
    s.fill lo n v = { s with file := (s.fill lo n v).file, diag := (s.fill lo n v).diag } := by
  induction n generalizing s lo with
  | zero => rfl
  | succ n ih =>
    simp only [State.fill]
    rw [ih]
    simp only [State.memWrite]
    split <;> rfl

/-- A rewrite touches nothing but the register file and the diagnostic stream. -/
theorem State.memWriteBytes_frame (s : State) (a : Nat) (bs : List Byte) :
    s.memWriteBytes a bs = { s with file := (s.memWriteBytes a bs).file, diag := (s.memWriteBytes a bs).diag } := by
  induction bs generalizing s a with
  | nil => rfl
  | cons b bs ih =>
    simp only [State.memWriteBytes]
    rw [ih]
    simp only [State.memWrite]
    split <;> rfl

/-- RESET's register-file part touches nothing but the register file and the diagnostic stream. -/
theorem State.resetFile_frame (s : State) :
    s.resetFile = { s with file := s.resetFile.file, diag := s.resetFile.diag } := by
  simp only [State.resetFile]
  split
  · rw [State.memWriteBytes_frame, State.fill_frame]
    rfl
  · rw [State.fill_frame]
    rfl

/-- RESET keeps the configuration, the clock offset, the inputs and the transaction state that it has just set. -/
theorem State.resetBody_frame (s : State) :
    s.resetFile.resetAlarm.resetIrq =
      { s with
        file := s.resetFile.file, diag := s.resetFile.diag
        alarmDeadline := if s.cfg.resetDisarmsAlarm then none else s.alarmDeadline
        irq := if s.cfg.resetReevalIrq then irqLevel s.cfg s.resetFile.file else s.irq
        timer := if s.cfg.resetDisarmsAlarm = true ∧ s.alarmDeadline ≠ none then some .cancel else s.timer } := by
  rw [State.resetFile_frame]
  simp only [State.resetIrq, State.resetAlarm, State.disarm, State.irqReeval]
  by_cases h1 : s.cfg.resetDisarmsAlarm = true <;> by_cases h2 : s.cfg.resetReevalIrq = true <;>
    cases s.alarmDeadline <;> simp [h1, h2]

/-- What RESET leaves in the register file, in an instance whose fields lie below `REG_SIZE` (R232). -/
theorem State.resetFile_of_wellFormed {s : State} (hc : s.cfg.wellFormed = true)
    (hn : s.snapshot.length = s.cfg.snapLen) :
    s.resetFile =
      { s with
        file :=
          let m := (s.file.clear 0 s.cfg.regSize).writeBytes s.cfg.idBase (List.replicate s.cfg.idLen idFill)
          if s.cfg.resetScratch = .snapshot then m.writeBytes s.cfg.snapAddr s.snapshot else m } := by
  have hf := Config.inFile_of_wellFormed hc
  have hs := Config.scratch_of_wellFormed hc
  simp only [State.resetFile]
  rw [State.clear_of_le (by omega), State.fill_of_le (by simpa using hf.1)]
  simp only [Nat.zero_add]
  split
  · rw [State.memWriteBytes_of_le (by simp only; omega)]
  · rfl

end Sys2Proof.Machine
end

