-- ==== Sys2Proof/Laws/PerInstr.lean ====
section
/-! SUPPORT. The family `EncodeFields`: what the two fields of an event's command word hold (30_encoding.md R91, R92),
one lemma per constructor of `Instr`. -/

namespace Sys2Proof.Laws.EncodeFields

/-- The command word of `i` holds its opcode in bits 11:8 and its data byte in bits 7:0, and bit 11 tells the format: 0
for a bus event, 1 for a host event (R91). -/
def Statement (i : Instr) : Prop :=
  cmdOpc (encode i) = opcodeOf i ∧ cmdData (encode i) = dataOf i ∧
    ((encode i).msb = true ↔ i.format = Format.host)

theorem sr : Statement .sr := by unfold Statement; decide

theorem sw : Statement .sw := by unfold Statement; decide

theorem swa : Statement .swa := by unfold Statement; decide

theorem fin : Statement .fin := by unfold Statement; decide

theorem nak : Statement .nak := by unfold Statement; decide

theorem rx : Statement .rx := by unfold Statement; decide

/-- A twelve-bit concatenation gives its two fields back. -/
theorem fields_append (o : BitVec 4) (b : Byte) :
    (o ++ b).extractLsb' 8 4 = o ∧ (o ++ b).extractLsb' 0 8 = b := by
  have hb := b.isLt
  have h : (o ++ b).toNat = 256 * o.toNat + b.toNat := by
    rw [BitVec.toNat_append, ← Nat.shiftLeft_add_eq_or_of_lt hb, Nat.shiftLeft_eq]
    omega
  constructor <;> apply BitVec.eq_of_toNat_eq <;> rw [BitVec.extractLsb'_toNat, h, Nat.shiftRight_eq_div_pow] <;> omega

theorem tx (d : Nat) : Statement (.tx d) := by
  obtain ⟨h1, h2⟩ := fields_append 0x6#4 (BitVec.ofNat 8 d)
  refine ⟨h1, h2, ?_⟩
  have h3 : (encode (.tx d)).msb = (0x6#4).msb := BitVec.msb_append
  rw [h3, show (Instr.tx d).format = Format.bus from rfl]
  decide

theorem reset : Statement .reset := by unfold Statement; decide

theorem expire : Statement .expire := by unfold Statement; decide

theorem create : Statement .create := by unfold Statement; decide

end Sys2Proof.Laws.EncodeFields
end

