-- ==== Sys2Proof/Tests/Slice0.lean ====
section
/-! SUPPORT. Tests by name. Expected results come from spec/95_test_vectors.md (V1 to V12), 42_tick_clock.md R158 and the
tables of 00_scope.md R8, R9 and 30_encoding.md R91, R94, R97, R100, R101; the last part has one witness per statement with
hypotheses. -/

namespace Sys2Proof.Tests

open Sys2Proof Sys2Proof.Machine

/-! ## Well-formedness: REF passes, and each check refuses an ill-formed term -/

theorem test_ref_wellFormed : Config.ref.wellFormed = true := by decide

theorem test_tx_255_wellFormed : (Instr.tx 255).wellFormed = true ∧ (Instr.tx 256).wellFormed = false := by decide

theorem test_oneBit_refuses : oneBit 0x00#8 = false ∧ oneBit 0x03#8 = false ∧ oneBit 0x80#8 = true := by decide

theorem test_sizeOk_refuses :
    { Config.ref with regSize := 0 }.sizeOk = false ∧ { Config.ref with regSize := 65537 }.sizeOk = false ∧
    { Config.ref with regSize := 65536 }.wellFormed = true := by decide

theorem test_idOk_refuses : { Config.ref with idLen := 1 }.idOk = false := by decide

theorem test_irqOk_refuses :
    { Config.ref with irqLen := 0 }.irqOk = false ∧ { Config.ref with alarmEvtOff := 2 }.irqOk = false ∧
    { Config.ref with alarmEvtMask := 0x05#8 }.irqOk = false := by decide

theorem test_ctrlOk_refuses :
    { Config.ref with ctrlMonitorMask := 0x00#8 }.ctrlOk = false ∧
    { Config.ref with ctrlAlarmEnMask := 0x41#8 }.ctrlOk = false ∧
    { Config.ref with ctrlAlarmEnMask := 0x01#8 }.ctrlOk = false := by decide

theorem test_alarmOk_refuses :
    { Config.ref with alarmLen := 5 }.alarmOk = false ∧ { Config.ref with alarmLen := 8 }.alarmOk = false ∧
    { Config.ref with alarmArithBits := 0 }.alarmOk = false ∧
    { Config.ref with alarmArithBits := 65 }.alarmOk = false := by decide

theorem test_scratchOk_refuses :
    { Config.ref with snapLen := 0 }.scratchOk = false ∧ { Config.ref with snapLen := 0x101 }.scratchOk = false ∧
    { Config.ref with snapAddr := 0x07FF }.scratchOk = false ∧
    { Config.ref with snapAddr := 0x08F9 }.scratchOk = false := by decide

theorem test_fieldsInFile_refuses : { Config.ref with clkAddr := 0x0FFA }.fieldsInFile = false := by decide

theorem test_fieldsDisjoint_refuses :
    { Config.ref with clkAddr := 0x011A }.fieldsDisjoint = false ∧
    { Config.ref with eventAddr := 0x0021 }.fieldsDisjoint = false := by decide

/-- A step list of 32768 entries is refused, one of 32767 is not. -/
theorem test_clockOk_refuses (n : Nat) :
    { Config.ref with subTicks := .steps (List.replicate n 0) }.clockOk = decide (n < 32768) := by
  show decide ((List.replicate n 0).length < tickHz) = decide (n < 32768)
  rw [List.length_replicate]
  rfl

/-! ## Decoding: the words of V1, written out bit by bit from R91 -/

theorem test_decode_sr : decode 0b000000000000#12 = .event .sr := by decide
theorem test_decode_sw : decode 0b000100000000#12 = .event .sw := by decide
theorem test_decode_swa : decode 0b001000000000#12 = .event .swa := by decide
theorem test_decode_fin : decode 0b001100000000#12 = .event .fin := by decide
theorem test_decode_nak : decode 0b010000000000#12 = .event .nak := by decide
theorem test_decode_rx : decode 0b010100000000#12 = .event .rx := by decide
theorem test_decode_tx :
    decode 0b011000000000#12 = .event (.tx 0) ∧ decode 0b011011111111#12 = .event (.tx 255) ∧
    decode 0b011001011010#12 = .event (.tx 0x5A) := by decide
theorem test_decode_reset : decode 0b100000000000#12 = .event .reset := by decide
theorem test_decode_expire : decode 0b100100000000#12 = .event .expire := by decide
theorem test_decode_create : decode 0b101000000000#12 = .event .create := by decide

/-- The reserved words of V1. -/
theorem test_decode_reserved :
    decode 0x001#12 = .reserved (.data 0x0#4 0x01#8) ∧ decode 0x1FF#12 = .reserved (.data 0x1#4 0xFF#8) ∧
    decode 0x7A5#12 = .reserved (.opcode 0x7#4) ∧ decode 0x801#12 = .reserved (.data 0x8#4 0x01#8) ∧
    decode 0xB00#12 = .reserved (.opcode 0xB#4) ∧ decode 0xFFF#12 = .reserved (.opcode 0xF#4) := by decide

theorem test_table_word :
    decodeTableWord 16 0x65A = some (.tx 0x5A) ∧ decodeTableWord 16 0x700 = none ∧
    decodeTableWord 16 0x1500 = none := by decide

/-- Response words of V1 and V3. -/
theorem test_response_words :
    (Response.ok 0x5A#8).word = 0x005A#13 ∧ (Response.rej .startReadBusy).word = 0x1100#13 ∧
    (Response.rej .rxOutOfRange).word = 0x1700#13 ∧ (Response.rej .txOutOfRange).word = 0x1900#13 := by decide

/-! ## The tick clock: R158 and V5 -/

theorem test_tick_values :
    tickOf 30517 = 0x0#64 ∧ tickOf 30518 = 0x1#64 ∧ tickOf 999999999 = 0x7FFF#64 ∧ tickOf 5250000000 = 0x2A000#64 ∧
    tickOf 6100000000 = 0x30CCC#64 ∧ tickOf (2 ^ 49 * 1000000000) = 0x0#64 := by decide

theorem test_pack7_values :
    pack7 (tickOf 86400000000000) = [0x00#8, 0x00#8, 0x80#8, 0x51#8, 0x01#8, 0x00#8, 0x00#8] ∧
    pack7 (tickOf 2147483648123456789) = [0x9A#8, 0x1F#8, 0x00#8, 0x00#8, 0x00#8, 0x80#8, 0x00#8] := by decide

/-! ## Single steps -/

/-- The launch state of part 3 of the vectors is `State.reset` shifted by T0; here T0 is 0. -/
def busAt (now : Nat) (op : Op) (phase : Phase) (ap : Addr) : State :=
  { State.reset with now := now, op := op, phase := phase, ap := ap }

/-- The state a next outcome holds, else the state given. -/
def after (s : State) (i : Instr) : State :=
  match exec i s with
  | .next t => t
  | _ => s

theorem test_reset_memory_wf : State.reset.file.wf := by decide

theorem test_sr :
    (after (busAt 0 .none .addressComplete 0x0126#16) .sr).op = .reading ∧
    (after (busAt 0 .none .addressComplete 0x0126#16) .sr).ap = 0x0126#16 ∧
    (after (busAt 0 .writing .addressComplete 0x0126#16) .sr).resp = some (.rej .startReadBusy) := by decide

theorem test_sw :
    (after (busAt 0 .none .addressComplete 0x0126#16) .sw).ap = 0x0000#16 ∧
    (after (busAt 0 .none .addressComplete 0x0126#16) .sw).phase = .awaitingHighByte ∧
    (after (busAt 0 .reading .addressComplete 0x0126#16) .sw).resp = some (.rej .startWriteBusy) := by decide

theorem test_swa :
    (after (busAt 0 .none .addressComplete 0x0126#16) .swa).resp = some (.rej .asyncUnsupported) ∧
    (after (busAt 0 .none .addressComplete 0x0126#16) .swa).op = .none := by decide

theorem test_fin :
    (after (busAt 0 .writing .awaitingLowByte 0x0100#16) .fin).op = .none ∧
    (after (busAt 0 .writing .awaitingLowByte 0x0100#16) .fin).phase = .awaitingLowByte ∧
    (after (busAt 0 .writing .awaitingLowByte 0x0100#16) .fin).ap = 0x0100#16 := by decide

theorem test_nak :
    (after (busAt 0 .reading .addressComplete 0x0126#16) .nak).resp = some (.rej .nack) ∧
    (after (busAt 0 .reading .addressComplete 0x0126#16) .nak).op = .reading := by decide

/-- V3: the byte, the window byte, the materialised window. -/
theorem test_rx :
    (after (busAt 0 .reading .addressComplete 0x0010#16) .rx).resp = some (.ok 0xFF#8) ∧
    (after (busAt 0 .reading .addressComplete 0x0010#16) .rx).ap = 0x0011#16 ∧
    (after (busAt 5250000000 .reading .addressComplete 0x0112#16) .rx).resp = some (.ok 0x05#8) ∧
    (after (busAt 5250000000 .reading .addressComplete 0x0116#16) .rx).file.read 0x0111 = 0x40#8 ∧
    (after (busAt 5250000000 .reading .addressComplete 0x0117#16) .rx).file.read 0x0111 = 0x00#8 := by decide

/-- V3: the rejections, and the wrap of `ap` when `REG_SIZE` is 65536. -/
theorem test_rx_edges :
    (after (busAt 0 .reading .addressComplete 0x1000#16) .rx).resp = some (.rej .rxOutOfRange) ∧
    (after (busAt 0 .reading .awaitingLowByte 0x0200#16) .rx).resp = some (.rej .rxNoAddress) ∧
    (after { busAt 0 .reading .addressComplete 0xFFFF#16 with cfg := { Config.ref with regSize := 65536 } } .rx).ap =
      0x0000#16 := by decide

/-- R150, R151, R154 by hand: with four counts a second, at e = 5 250 000 000 ns the tick is 5 * 32768 + 1. -/
theorem test_rx_replaced_clock :
    let s := { busAt 5250000000 .reading .addressComplete 0x0110#16 with
               cfg := { Config.ref with subTicks := .steps [250000000, 500000000, 750000000] } }
    (after s .rx).resp = some (.ok 0x02#8) ∧ (after s .rx).file.read 0x0111 = 0x00#8 ∧
    (after s .rx).file.read 0x0112 = 0x05#8 := by decide

/-- V4: the two address phases, plain storage, the rejections. -/
theorem test_tx :
    (after (busAt 0 .none .awaitingHighByte 0x0000#16) (.tx 0xFF)).ap = 0xFF00#16 ∧
    (after (busAt 0 .writing .awaitingLowByte 0x0100#16) (.tx 0x20)).ap = 0x0120#16 ∧
    (after (busAt 0 .writing .addressComplete 0x0010#16) (.tx 0)).file = [(0x0011, 0xFF#8)] ∧
    (after (busAt 0 .none .addressComplete 0x0200#16) (.tx 0x5A)).resp = some (.rej .txNotWriting) ∧
    (after (busAt 0 .writing .addressComplete 0x1000#16) (.tx 0xAA)).resp = some (.rej .txOutOfRange) := by decide

/-- V4 and V7: ALARM_REEVAL with a past target, with a target in five seconds, and with the target now; IRQ_REEVAL. -/
theorem test_tx_side_effects :
    (after (busAt 2300000000 .writing .addressComplete 0x0100#16) (.tx 0x40)).alarmDeadline =
      some (2300000000 + (2 ^ 64 - 2) * 1000000000) ∧
    (after { busAt 2300000000 .writing .addressComplete 0x0120#16 with file := [(0x0100, 0x40#8)] } (.tx 7)).alarmDeadline =
      some 7300000000 ∧
    (after (busAt 999999999 .writing .addressComplete 0x0100#16) (.tx 0x40)).file.read 0x0031 = 0x04#8 ∧
    (after { busAt 0 .writing .addressComplete 0x0031#16 with file := [(0x0021, 0x04#8)] } (.tx 4)).irq = true ∧
    (after { busAt 0 .writing .addressComplete 0x0030#16 with file := [(0x0021, 0x04#8)] } (.tx 4)).irq = false := by decide

/-- V10: RESET from the middle of a write, with an armed alarm and the line up. -/
theorem test_reset :
    (after { busAt 4000000000 .writing .awaitingLowByte 0x0200#16 with
        file := [(0x0021, 0x04#8), (0x0031, 0x04#8), (0x0100, 0x40#8), (0x0120, 0x0A#8), (0x0200, 0x5A#8)]
        alarmDeadline := some 10600000000, irq := true } .reset) =
      { State.reset with now := 4000000000, timer := some .cancel } := by decide

/-- V9: EXPIRE at its deadline keeps the other event bits; a nanosecond early it has no step. -/
theorem test_expire :
    (after { busAt 5000000000 .none .awaitingHighByte 0x0000#16 with
        file := [(0x0021, 0x04#8), (0x0030, 0x81#8), (0x0031, 0xFB#8)], alarmDeadline := some 5000000000 } .expire).file =
      [(0x0021, 0x04#8), (0x0030, 0x81#8), (0x0031, 0xFF#8)] ∧
    exec .expire { busAt 4999999999 .none .awaitingHighByte 0x0000#16 with alarmDeadline := some 5000000000 } =
      .refused .beforeDeadline := by
  constructor
  · decide
  · rfl

/-- V10: CREATE stores the snapshot and no identity bytes. -/
def unborn : State :=
  { State.reset with
    file := [], created := false, now := 1000000000000
    argSnapshot := [0x11#8, 0x22#8, 0x33#8, 0x44#8, 0x55#8, 0x66#8, 0x77#8, 0x88#8] }

theorem test_create :
    (after unborn .create).rtcOffset = 1000000000000 ∧ (after unborn .create).file.read 0x0810 = 0x11#8 ∧
    (after unborn .create).file.read 0x0817 = 0x88#8 ∧ (after unborn .create).file.read 0x0010 = 0x00#8 := by decide

/-- V11: with the alternative switch values a RESET keeps the alarm and the line and rewrites the snapshot. -/
theorem test_policy_switches :
    (after { busAt 500 .none .addressComplete 0x0101#16 with
        cfg := { Config.ref with resetDisarmsAlarm := false, resetReevalIrq := false, resetScratch := .snapshot }
        snapshot := [0x11#8, 0#8, 0#8, 0#8, 0#8, 0#8, 0#8, 0x88#8]
        irq := true, alarmDeadline := some 3000000400 } .reset) =
      { busAt 500 .none .awaitingHighByte 0x0000#16 with
        cfg := { Config.ref with resetDisarmsAlarm := false, resetReevalIrq := false, resetScratch := .snapshot }
        snapshot := [0x11#8, 0#8, 0#8, 0#8, 0#8, 0#8, 0#8, 0x88#8]
        file := [(0x0010, 0xFF#8), (0x0011, 0xFF#8), (0x0810, 0x11#8), (0x0817, 0x88#8)]
        irq := true, alarmDeadline := some 3000000400 } := by decide

/-- V12: the primitives. -/
theorem test_primitives :
    (State.reset.memRead 0x0010).1 = 0xFF#8 ∧ (State.reset.memRead 0x1000).2.diag = [.outOfRange 0x1000] ∧
    ((State.reset.memWrite 0x0FFF 0xAB#8).memRead 0x0FFF).1 = 0xAB#8 ∧
    (State.reset.memWrite 0x1000 0xAB#8).file = State.reset.file ∧
    Memory.le [(0x0120, 0x0A#8), (0x0122, 0x01#8)] 0x0120 6 = 65546 := by decide

/-! ## Event programs (R100, R101) -/

theorem test_line_rx :
    lineOf "@+100 RX -> OK 0x5A ; read".toList =
      some { time := some (.later 100), event := .rx, snapshot := [], expect := some (.ok (some 0x5A#8)) } := by decide

theorem test_line_create :
    lineOf "@1000 CREATE 0x11,34".toList =
      some { time := some (.absolute 1000), event := .create, snapshot := [0x11#8, 0x22#8], expect := none } := by decide

theorem test_line_refused :
    lineOf "RESET -> OK".toList = none ∧ lineOf "TX 256".toList = none ∧ lineOf "BYTE".toList = none := by decide

theorem test_expand_write :
    expand (.write 0x0200#16 [0x5A#8]) = [.sw, .tx 0x02, .tx 0x00, .tx 0x5A, .fin] := by decide

/-! ## Witnesses: a state and operands that meet all hypotheses of a statement, at boundary values of each clause -/

/-- The interrupt level in a form that evaluates, for the states below. -/
theorem inv4_of_level {s : State} (h : s.irq = irqLevel s.cfg s.file) : s.Inv4 := by
  intro _ _
  rw [h, irqLevel_iff]

/-- An instance with the alarm's mask bit set and the alarm armed for second 5 at creation, in its due nanosecond. -/
def armed : State :=
  { busAt 5000000000 .none .awaitingHighByte 0x0000#16 with
    file := [(0x0010, 0xFF#8), (0x0011, 0xFF#8), (0x0021, 0x04#8), (0x0100, 0x40#8), (0x0120, 0x05#8)]
    alarmDeadline := some 5000000000 }

theorem test_armed_good : armed.Good :=
  { config := by decide
    snapshot := by decide
    clock := by decide
    file := by decide
    inv1 := by decide
    inv2 := by decide
    inv3 := by decide
    inv4 := inv4_of_level (by decide)
    inv5 := by
      intro d hd
      cases hd
      exact ⟨0, 5, by decide, by decide, by decide, by decide, by decide⟩ }

/-- A data byte about to be written at `ap`, with `ctrl` in the control register and `low` in the first alarm byte. -/
def writingAt (now : Nat) (ap : Addr) (ctrl low : Byte) : State :=
  { busAt now .writing .addressComplete ap with
    file := (Memory.write [] 0x0120 low).write 0x0100 ctrl, alarmDeadline := some 99000000000 }

/-- One event with a clock value. -/
def eventOfWord (w : Cmd) (now : Nat) : Event := { cmd := w, now := now, snapshot := [], cfg := Config.ref }

theorem test_witness_EncodedEventDecodesToItself : (Instr.tx 255).wellFormed = true := by decide

theorem test_witness_DecodedWordIsItsEncoding : decode 0x6FF#12 = .event (.tx 255) := by decide

/-- On an instance with the clock standing still, and before CREATE with any clock. -/
theorem test_witness_StepRunsTheDecodedEvent :
    (∀ s ∈ [{ armed with events := [eventOfWord 0x900#12 5000000000] }, { unborn with events := [eventOfWord 0xA00#12 0] }],
      ∃ e i, s.events = e :: [] ∧ (s.created = true → s.now ≤ e.now) ∧ decode e.cmd = .event i) := by
  intro s hs
  fin_cases hs
  · exact ⟨eventOfWord 0x900#12 5000000000, .expire, rfl, by decide, by decide⟩
  · exact ⟨eventOfWord 0xA00#12 0, .create, rfl, by decide, by decide⟩

theorem test_witness_StepRefusesInputsWithoutStep :
    armed.events = [] ∧
    ({ armed with events := [eventOfWord 0x000#12 4999999999] }.created = true ∧ (4999999999 : Nat) < armed.now) ∧
    ((armed.created = true → armed.now ≤ 5000000000) ∧
      decode (eventOfWord 0x700#12 5000000000).cmd = .reserved (.opcode 0x7#4)) := by decide

theorem test_witness_PlacedWordRunsNext :
    decodeTableWord 16 0x6FF = some (.tx 255) ∧ decodeTableWord 16 0x000 = some .sr := by decide

theorem test_witness_AssembledProgramCarriesItsLines :
    ∀ l ∈ [{ time := none, event := .tx 255, snapshot := [], expect := none : Line }],
      l.event.wellFormed = true := by decide

/-- `StartReadOpensOrIsRejected`, `StartWriteOpensOrIsRejected`: the two clauses of SR and SW; and the hypothesis of SWA, FIN and NAK, with the clock at `rtc_offset`. -/
theorem test_witness_lifecycle :
    (State.reset.Live ∧ State.reset.op = .none) ∧
    ((busAt 0 .writing .addressComplete 0#16).Live ∧ (busAt 0 .writing .addressComplete 0#16).op ≠ .none) := by decide

/-- Just below the window, just above it, at the last byte of the register file. -/
theorem test_witness_ByteOutReturnsStoredByte :
    ∀ ap ∈ [0x010F#16, 0x0117#16, 0x0FFF#16],
      let s := busAt 0 .reading .addressComplete ap
      s.Live ∧ s.op = .reading ∧ s.phase = .addressComplete ∧ s.ap.toNat < s.cfg.regSize ∧
        ¬ (s.cfg.clkAddr ≤ s.ap.toNat ∧ s.ap.toNat < s.cfg.clkAddr + 7) := by
  intro ap h
  fin_cases h <;> decide

/-- The first and the last byte of the window. -/
theorem test_witness_ByteOutInWindowReturnsClock :
    ∀ ap ∈ [0x0110#16, 0x0116#16],
      let s := busAt 5250000000 .reading .addressComplete ap
      s.Live ∧ s.file.wf ∧ s.op = .reading ∧ s.phase = .addressComplete ∧ s.ap.toNat < s.cfg.regSize ∧
        s.cfg.clkAddr ≤ s.ap.toNat ∧ s.ap.toNat < s.cfg.clkAddr + 7 := by
  intro ap h
  fin_cases h <;> decide

theorem test_witness_ByteOutRejections :
    (let s := busAt 0 .writing .addressComplete 0x1000#16; s.Live ∧ s.op ≠ .reading) ∧
    (let s := busAt 0 .reading .awaitingLowByte 0x1000#16; s.Live ∧ s.op = .reading ∧ s.phase ≠ .addressComplete) ∧
    (let s := busAt 0 .reading .addressComplete 0x1000#16
     s.Live ∧ s.op = .reading ∧ s.phase = .addressComplete ∧ s.cfg.regSize ≤ s.ap.toNat) := by decide

theorem test_witness_AddressBytesFillThePointer :
    (busAt 0 .none .awaitingHighByte 0#16).Live ∧ 255 < 256 ∧
    (busAt 0 .none .awaitingHighByte 0#16).phase = .awaitingHighByte ∧
    (busAt 0 .reading .awaitingLowByte 0xFF00#16).phase = .awaitingLowByte := by decide

theorem test_witness_StrayBytesAfterResetStoreNothing : armed.Live ∧ 0 < 256 ∧ 255 < 256 := by decide

theorem test_witness_AddressPhaseIsHighByteFirst : State.reset.Live ∧ State.reset.op = .none ∧ 255 < 256 := by decide

/-- Next to the event register, next to the alarm field, at the end of the register file. -/
theorem test_witness_DataByteIsStored :
    ∀ ap ∈ [0x0032#16, 0x002F#16, 0x011F#16, 0x0126#16, 0x0FFF#16],
      let s := busAt 0 .writing .addressComplete ap
      s.Live ∧ s.file.wf ∧ s.phase = .addressComplete ∧ s.op = .writing ∧ s.ap.toNat < s.cfg.regSize ∧
      s.ap.toNat ≠ s.cfg.ctrlAddr ∧
      ¬ (s.cfg.alarmAddr ≤ s.ap.toNat ∧ s.ap.toNat < s.cfg.alarmAddr + s.cfg.alarmLen) ∧
      (s.cfg.irqReevalOnWrite = true →
        ¬ (s.cfg.maskAddr ≤ s.ap.toNat ∧ s.ap.toNat < s.cfg.maskAddr + s.cfg.irqLen) ∧
        ¬ (s.cfg.eventAddr ≤ s.ap.toNat ∧ s.ap.toNat < s.cfg.eventAddr + s.cfg.irqLen)) := by
  intro ap h
  fin_cases h <;> decide

/-- The first and last byte of the mask register and of the event register. -/
theorem test_witness_IrqRegisterWriteReevaluatesLine :
    ∀ ap ∈ [0x0020#16, 0x0021#16, 0x0030#16, 0x0031#16],
      let s := busAt 0 .writing .addressComplete ap
      s.Live ∧ s.file.wf ∧ s.cfg.wellFormed = true ∧ s.cfg.irqReevalOnWrite = true ∧ s.phase = .addressComplete ∧
      s.op = .writing ∧
      ((s.cfg.maskAddr ≤ s.ap.toNat ∧ s.ap.toNat < s.cfg.maskAddr + s.cfg.irqLen) ∨
        (s.cfg.eventAddr ≤ s.ap.toNat ∧ s.ap.toNat < s.cfg.eventAddr + s.cfg.irqLen)) := by
  intro ap h
  fin_cases h <;> decide

theorem test_witness_DataByteRejections :
    (let s := busAt 0 .none .addressComplete 0x1000#16; s.Live ∧ 255 < 256 ∧ s.phase = .addressComplete ∧ s.op ≠ .writing) ∧
    (let s := busAt 0 .writing .addressComplete 0x1000#16
     s.Live ∧ 255 < 256 ∧ s.phase = .addressComplete ∧ s.op = .writing ∧ s.cfg.regSize ≤ s.ap.toNat) := by decide

/-- Two bytes up to the end of the register file. -/
theorem test_witness_BlockWriteStoresItsBytes :
    State.reset.Live ∧ State.reset.file.wf ∧ State.reset.op = .none ∧
    (0x0FFE#16).toNat + [0x11#8, 0x22#8].length ≤ State.reset.cfg.regSize ∧ State.reset.cfg.regSize ≤ 65536 ∧
    (∀ x, (0x0FFE#16).toNat ≤ x → x < (0x0FFE#16).toNat + [0x11#8, 0x22#8].length →
      x ≠ State.reset.cfg.ctrlAddr ∧
      ¬ (State.reset.cfg.alarmAddr ≤ x ∧ x < State.reset.cfg.alarmAddr + State.reset.cfg.alarmLen) ∧
      ¬ (State.reset.cfg.maskAddr ≤ x ∧ x < State.reset.cfg.maskAddr + State.reset.cfg.irqLen) ∧
      ¬ (State.reset.cfg.eventAddr ≤ x ∧ x < State.reset.cfg.eventAddr + State.reset.cfg.irqLen)) := by
  refine ⟨by decide, by decide, by decide, by decide, by decide, ?_⟩
  intro x h1 h2
  simp only [State.reset, Config.ref, List.length_cons, List.length_nil, BitVec.toNat_ofNat] at h1 h2 ⊢
  omega

/-- The byte just above the window, and the last byte of the register file. -/
theorem test_witness_WrittenByteReadsBack :
    armed.Live ∧ armed.Good ∧ armed.op = .none ∧ 255 < 256 ∧
    256 * 0x0F + 0xFF < armed.cfg.regSize ∧
    ¬ (armed.cfg.clkAddr ≤ 256 * 0x01 + 0x17 ∧ 256 * 0x01 + 0x17 < armed.cfg.clkAddr + 7) :=
  ⟨by decide, test_armed_good, by decide, by decide, by decide, by decide⟩

theorem test_witness_TickNeverDecreases :
    (0 ≤ 2 ^ 49 * 1000000000 - 1 ∧ 2 ^ 49 * 1000000000 - 1 < 2 ^ 49 * 1000000000) ∧
    Config.ref.wellFormed = true ∧ ∀ k, Config.ref.subTicks ≠ .platform k :=
  ⟨by decide, by decide, fun k h => by cases h⟩

theorem test_witness_TickGainsHzPerSecond : ∀ k, SubTicks.steps [0, 999999999] ≠ .platform k := fun k h => by cases h

/-- REF with a replaced clock that does not count within a second. -/
def coarseClock : Config := { Config.ref with subTicks := .steps [] }

/-- The first and the last byte of the window, at creation and in the last second before the window wraps. -/
theorem test_witness_LaterWindowReadIsNotEarlier :
    let s := { busAt 0 .reading .addressComplete 0x0110#16 with cfg := coarseClock }
    let t := { busAt (2 ^ 40 * 1000000000 - 1) .reading .addressComplete 0x0116#16 with cfg := coarseClock }
    s.Live ∧ t.Live ∧ s.cfg = t.cfg ∧ s.rtcOffset = t.rtcOffset ∧ s.now ≤ t.now ∧ TickLawful s.cfg ∧
    t.now - t.rtcOffset < 2 ^ 40 * 1000000000 ∧
    (∀ u ∈ [s, t], u.file.wf ∧ u.op = .reading ∧ u.phase = .addressComplete ∧ u.ap.toNat < u.cfg.regSize ∧
      u.cfg.clkAddr ≤ u.ap.toNat ∧ u.ap.toNat < u.cfg.clkAddr + 7) := by
  refine ⟨by decide, by decide, by decide, by decide, by decide, ⟨subTicksOf_lt _, ?_⟩, by decide, ?_⟩
  · intro e e' h h'
    rw [tickWith_toNat (subTicksOf_lt _ _), tickWith_toNat (subTicksOf_lt _ _)]
    show (e / 1000000000 * 32768 + 0) % 2 ^ 64 ≤ (e' / 1000000000 * 32768 + 0) % 2 ^ 64
    omega
  · intro u h
    fin_cases h <;> decide

theorem test_witness_TickFieldsForAnySubSecond : ∀ x, subTicks x < 32768 := subTicks_lt

/-- Disabled; enabled with the target now; enabled with the target one second ahead. -/
theorem test_witness_AlarmReevalDisarmsFiresOrArms :
    State.reset.file.read State.reset.cfg.ctrlAddr &&& State.reset.cfg.ctrlAlarmEnMask = 0x00#8 ∧
    (armed.file.read armed.cfg.ctrlAddr &&& armed.cfg.ctrlAlarmEnMask ≠ 0x00#8 ∧ armed.targetSeconds = 0) ∧
    ({ armed with now := 4999999999 }.targetSeconds = 1) := by decide

theorem test_witness_AlarmFireSetsItsBitAndTheLine : armed.file.wf := by decide

/-- The control register, the first and the last alarm byte. -/
theorem test_witness_AlarmWriteRunsReevaluation :
    ∀ ap ∈ [0x0100#16, 0x0120#16, 0x0125#16],
      let s := busAt 0 .writing .addressComplete ap
      s.Live ∧ s.cfg.wellFormed = true ∧ s.phase = .addressComplete ∧ s.op = .writing ∧
      (s.ap.toNat = s.cfg.ctrlAddr ∨
        (s.cfg.alarmAddr ≤ s.ap.toNat ∧ s.ap.toNat < s.cfg.alarmAddr + s.cfg.alarmLen)) := by
  intro ap h
  fin_cases h <;> decide

/-- What the four statements about an alarm write share, in the state `s` and for the byte `d`. -/
abbrev AlarmWrite (s : State) (d : Nat) : Prop :=
  s.Live ∧ d < 256 ∧ s.file.wf ∧ s.cfg.wellFormed = true ∧ s.phase = .addressComplete ∧ s.op = .writing ∧
    (s.ap.toNat = s.cfg.ctrlAddr ∨
      (s.cfg.alarmAddr ≤ s.ap.toNat ∧ s.ap.toNat < s.cfg.alarmAddr + s.cfg.alarmLen))

/-- The enable bit after the write, and the alarm field after the write. -/
abbrev enableAfter (s : State) (d : Nat) : Byte :=
  (s.file.write s.ap.toNat (BitVec.ofNat 8 d)).read s.cfg.ctrlAddr &&& s.cfg.ctrlAlarmEnMask

abbrev fieldAfter (s : State) (d : Nat) : Nat :=
  (s.file.write s.ap.toNat (BitVec.ofNat 8 d)).le s.cfg.alarmAddr s.cfg.alarmLen

theorem test_witness_DisabledAlarmIsCancelled :
    AlarmWrite (writingAt 0 0x0100#16 0x40#8 0x07#8) 0xBF ∧ enableAfter (writingAt 0 0x0100#16 0x40#8 0x07#8) 0xBF = 0x00#8 ∧
    AlarmWrite (writingAt 0 0x0125#16 0x00#8 0x07#8) 255 ∧ enableAfter (writingAt 0 0x0125#16 0x00#8 0x07#8) 255 = 0x00#8 := by
  decide

theorem test_witness_TargetNowFiresWithinTheWrite :
    AlarmWrite (writingAt 7999999999 0x0100#16 0x00#8 0x07#8) 0x40 ∧
    enableAfter (writingAt 7999999999 0x0100#16 0x00#8 0x07#8) 0x40 ≠ 0x00#8 ∧
    fieldAfter (writingAt 7999999999 0x0100#16 0x00#8 0x07#8) 0x40 = (7999999999 - 0) / 1000000000 % 2 ^ 49 := by decide

/-- One second ahead, from the last nanosecond of second 6; and the farthest target of a six-byte field. -/
theorem test_witness_FutureTargetArmsAtItsSecond :
    AlarmWrite (writingAt 6999999999 0x0120#16 0x40#8 0x00#8) 7 ∧
    enableAfter (writingAt 6999999999 0x0120#16 0x40#8 0x00#8) 7 ≠ 0x00#8 ∧
    fieldAfter (writingAt 6999999999 0x0120#16 0x40#8 0x00#8) 7 = 7 ∧ (6999999999 - 0) / 1000000000 < 7 ∧
    (6999999999 - 0) / 1000000000 < 2 ^ 49 ∧ 7 - (6999999999 - 0) / 1000000000 < 2 ^ 64 := by decide

/-- One second late: the second after the target has just begun. -/
theorem test_witness_PastTargetArmsTheWrappedDistance :
    AlarmWrite (writingAt 8000000000 0x0120#16 0x40#8 0x00#8) 7 ∧
    enableAfter (writingAt 8000000000 0x0120#16 0x40#8 0x00#8) 7 ≠ 0x00#8 ∧
    fieldAfter (writingAt 8000000000 0x0120#16 0x40#8 0x00#8) 7 + 1 = (8000000000 - 0) / 1000000000 % 2 ^ 49 ∧
    1 ≤ 1 ∧ 1 < 2 ^ 64 := by decide

/-- At the deadline, a nanosecond before it, with nothing pending. -/
theorem test_witness_ExpireFiresADueAlarmOnly :
    armed.Live ∧ (armed.alarmDeadline = some 5000000000 ∧ 5000000000 ≤ armed.now ∧ armed.file.wf) ∧
    ({ armed with now := 4999999999 }.Live ∧ { armed with now := 4999999999 }.now < 5000000000) ∧
    State.reset.alarmDeadline = none := by decide

theorem test_witness_DueAlarmRaisesItsUnmaskedLine :
    armed.Good ∧ exec .expire armed = .next (after armed .expire) ∧
    armed.file.read (armed.cfg.maskAddr + armed.cfg.alarmEvtOff) &&& armed.cfg.alarmEvtMask ≠ 0x00#8 :=
  ⟨test_armed_good, rfl, by decide⟩

theorem test_witness_ResetLeavesItsContract :
    armed.Live ∧ armed.cfg.wellFormed = true ∧ armed.snapshot.length = armed.cfg.snapLen ∧ armed.file.wf := by decide

theorem test_witness_CreateBuildsTheInstance : unborn.Creatable := by decide

theorem test_witness_CreateReadsNoEarlierState :
    unborn.created = { unborn with op := .writing, file := armed.file }.created ∧
    unborn.events = { unborn with op := .writing, file := armed.file }.events := by decide

theorem test_witness_ResetStateIsCreateThenReset :
    let s := { unborn with now := 0, argSnapshot := List.replicate 8 0x00#8 }
    s.created = false ∧ s.now = 0 ∧ s.argCfg = Config.ref ∧ s.argSnapshot = List.replicate 8 0x00#8 ∧ s.events = [] := by
  decide

theorem test_witness_BrokenHostObligationIsRefused :
    (unborn.created = false ∧ Instr.tx 0 ≠ .create) ∧
    ({ armed with rtcOffset := 5000000001 }.created = true ∧
      { armed with rtcOffset := 5000000001 }.now < { armed with rtcOffset := 5000000001 }.rtcOffset) ∧
    armed.created = true ∧ (armed.Live ∧ 256 ≤ 256) := by decide

theorem test_witness_EveryBusEventIsAnswered :
    armed.Live ∧ (Instr.tx 255).wellFormed = true ∧ (Instr.tx 255).format = .bus := by decide

theorem test_witness_OneDiagnosticRecordPerRejection :
    armed.cfg.wellFormed = true ∧ armed.snapshot.length = armed.cfg.snapLen ∧ Instr.nak ≠ .create ∧
    exec .nak armed = .next (after armed .nak) ∧ exec .fin armed = .next (after armed .fin) :=
  ⟨by decide, by decide, by decide, rfl, rfl⟩

theorem test_witness_RejectionChangesNoState :
    exec .nak armed = .next (after armed .nak) ∧ (after armed .nak).resp = some (.rej .nack) := ⟨rfl, by decide⟩

/-- Also for the statements about the line and the notifications: an event that completes. -/
theorem test_witness_OnlyCreateWritesTheOffset :
    exec .expire armed = .next (after armed .expire) ∧ Instr.expire ≠ .create ∧
    exec .create unborn = .next (after unborn .create) := ⟨rfl, by decide, rfl⟩

theorem test_witness_PhaseMovesOnlyByItsEvents :
    (after armed (.tx 255)).phase ≠ armed.phase ∧
    (after (busAt 0 .none .awaitingLowByte 0xFF00#16) (.tx 255)).phase ≠ .awaitingLowByte ∧
    (after (busAt 0 .none .addressComplete 0xFFFF#16) .sw).phase ≠ .addressComplete := by decide

theorem test_witness_RegisterFileChangesOnlyThere :
    (after (busAt 1000000000 .reading .addressComplete 0x0110#16) .rx).file.read 0x0112 ≠ 0x00#8 ∧
    (after (busAt 0 .writing .addressComplete 0x0FFF#16) (.tx 1)).file.read 0x0FFF ≠ 0x00#8 ∧
    (after armed .expire).file.read 0x0031 ≠ armed.file.read 0x0031 := by decide

theorem test_witness_DeadlineChangesOnlyByItsEvents :
    (after armed .expire).alarmDeadline ≠ armed.alarmDeadline ∧ (after armed .reset).alarmDeadline ≠ armed.alarmDeadline ∧
    (after (busAt 0 .writing .addressComplete 0x0120#16) (.tx 1)).alarmDeadline = none ∧
    (after (writingAt 0 0x0120#16 0x40#8 0x00#8) (.tx 1)).alarmDeadline = some 1000000000 := by decide

theorem test_witness_NoBusEventReadsTheDeadline :
    (Instr.tx 7).format = .bus ∧
    exec (.tx 7) (writingAt 0 0x0120#16 0x40#8 0x00#8) = .next (after (writingAt 0 0x0120#16 0x40#8 0x00#8) (.tx 7)) :=
  ⟨by decide, rfl⟩

theorem test_witness_ClearIsFillWithZero : armed.file.wf := by decide

/-- The last address inside and the first address outside. -/
theorem test_witness_PrimitivesAreBoundsChecked :
    0x0FFF < State.reset.cfg.regSize ∧ State.reset.cfg.regSize ≤ 0x1000 ∧ State.reset.file.wf := by decide

theorem test_witness_StepKeepsGoodStates :
    { armed with events := [eventOfWord 0x900#12 5000000000] }.Inv ∧
    step { armed with events := [eventOfWord 0x900#12 5000000000] } =
      .next (after { armed with argSnapshot := [] } .expire) :=
  ⟨fun _ => { test_armed_good with }, rfl⟩

end Sys2Proof.Tests
end

section
/-! The device has no halt (00_scope.md R16): every handler of a bus event ends in `ok` or `reject`, and both are next
states with a response. -/

namespace Sys2Proof.Machine

/-! ## Results that are a next state with a response -/

/-- The outcome of a bus event as R96 wants it: a next state, and a response in it. -/
def Answered (x : Result) : Prop := ∃ t r, x = .next t ∧ t.resp = some r

theorem Answered.ok (s : State) (b : Byte) : Answered (s.ok b) := ⟨_, _, rfl, rfl⟩

theorem Answered.reject (s : State) (c : Cause) : Answered (s.reject c) := ⟨_, _, rfl, rfl⟩

/-- A guard between two answers is answered, whichever way it falls. -/
theorem Answered.ite {c : Prop} [Decidable c] {x y : Result} (hx : Answered x) (hy : Answered y) :
    Answered (if c then x else y) := by
  split
  · exact hx
  · exact hy

/-- The guard of the host obligations refuses no event of a live device. -/
theorem Answered.admitted {s : State} {k : State → Result} (hl : s.Live) (hk : Answered (k s.clearOutputs)) :
    Answered (s.admitted k) := by
  rwa [State.admitted_of_live hl]

/-! ## The bus events, one by one -/

theorem execSr_answered {s : State} (hl : s.Live) : Answered (execSr s) :=
  .admitted hl (.ite (.reject ..) (.ok ..))

theorem execSw_answered {s : State} (hl : s.Live) : Answered (execSw s) :=
  .admitted hl (.ite (.reject ..) (.ok ..))

theorem execSwa_answered {s : State} (hl : s.Live) : Answered (execSwa s) := .admitted hl (.reject ..)

theorem execFin_answered {s : State} (hl : s.Live) : Answered (execFin s) := .admitted hl (.ok ..)

theorem execNak_answered {s : State} (hl : s.Live) : Answered (execNak s) := .admitted hl (.reject ..)

theorem State.readByte_answered (s : State) : Answered s.readByte := .ok ..

theorem execRx_answered {s : State} (hl : s.Live) : Answered (execRx s) :=
  .admitted hl (.ite (.reject ..) (.ite (.reject ..) (.ite (.reject ..) (State.readByte_answered _))))

theorem State.storeByte_answered (s : State) (d : Byte) : Answered (s.storeByte d) := .ok ..

theorem State.takeData_answered (s : State) (d : Byte) : Answered (s.takeData d) :=
  .ite (.reject ..) (.ite (.reject ..) (s.storeByte_answered d))

/-- HO4 is what `TX` needs: above 255 there is no step. -/
theorem execTx_answered {d : Nat} {s : State} (hl : s.Live) (hd : d < 256) : Answered (execTx d s) := by
  refine .admitted hl ?_
  rw [deliveredByte_of_lt hd]
  cases s.clearOutputs.phase with
  | awaitingHighByte | awaitingLowByte => exact .ok ..
  | addressComplete => exact State.takeData_answered ..

/-- R16, R96: on a live device every well-formed bus event is answered. -/
theorem exec_answered {i : Instr} {s : State} (hl : s.Live) (hw : i.wellFormed = true) (hb : i.format = .bus) :
    Answered (exec i s) := by
  cases i with
  | sr => exact execSr_answered hl
  | sw => exact execSw_answered hl
  | swa => exact execSwa_answered hl
  | fin => exact execFin_answered hl
  | nak => exact execNak_answered hl
  | rx => exact execRx_answered hl
  | tx d => exact execTx_answered hl (of_decide_eq_true hw)
  | reset | expire | create => cases hb

/-! ## RESET -/

/-- A live device takes RESET whatever its state (R232). -/
theorem execReset_of_live {s : State} (hl : s.Live) :
    execReset s = .next s.clearOutputs.idleBus.resetFile.resetAlarm.resetIrq :=
  State.admitted_of_live hl _

/-- RESET's work on the file, the alarm and the line writes no response. -/
theorem State.resetBody_resp (s : State) : s.resetFile.resetAlarm.resetIrq.resp = s.resp := by
  rw [State.resetBody_frame]

/-- Settles O46, from the answer of each bus event and the response field of RESET's result. -/
theorem everyBusEventIsAnswered : Obligations.EveryBusEventIsAnswered := by
  intro s i hl hw
  refine ⟨exec_answered hl hw, ?_⟩
  rintro rfl
  refine ⟨_, execReset_of_live hl, ?_⟩
  rw [State.resetBody_resp, State.idleBus_resp, State.clearOutputs_resp]

end Sys2Proof.Machine
end

section
/-! What the five lifecycle events do on a live device (40_transaction_events.md R110 to R114), as equations: the converse
of the inversion lemmas `execSr_next` to `execNak_next`. -/

namespace Sys2Proof.Machine

/-! ## The guard of the two start events -/

/-- With no transaction open, the guard that SR and SW share lets the event through (R110, R111). -/
theorem State.admitted_start_of_idle {s : State} (hl : s.Live) (hop : s.op = .none) (c : Cause) (k : State → Result) :
    s.admitted (fun t => if t.op ≠ .none then t.reject c else k t) = k s.clearOutputs := by
  rw [State.admitted_of_live hl]
  exact if_neg (not_not_intro hop)

/-- With a transaction open, the same guard rejects the event (R110, R111). -/
theorem State.admitted_start_of_busy {s : State} (hl : s.Live) (hop : s.op ≠ .none) (c : Cause) (k : State → Result) :
    s.admitted (fun t => if t.op ≠ .none then t.reject c else k t) = .next (s.rejected c) := by
  rw [State.admitted_of_live hl]
  exact (if_pos hop).trans (s.reject_clearOutputs c)

/-- An event whose handler only rejects is rejected on every live device, whatever transaction is open (R112, R114). -/
theorem State.admitted_reject_of_live {s : State} (hl : s.Live) (c : Cause) :
    s.admitted (fun t => t.reject c) = .next (s.rejected c) :=
  (State.admitted_of_live hl _).trans (s.reject_clearOutputs c)

/-! ## The events, one by one -/

theorem execSr_of_idle {s : State} (hl : s.Live) (hop : s.op = .none) :
    execSr s = .next { s with op := .reading, resp := some (.ok 0x00#8), timer := none } :=
  State.admitted_start_of_idle hl hop _ _

theorem execSr_of_busy {s : State} (hl : s.Live) (hop : s.op ≠ .none) : execSr s = .next (s.rejected .startReadBusy) :=
  State.admitted_start_of_busy hl hop _ _

theorem execSw_of_idle {s : State} (hl : s.Live) (hop : s.op = .none) :
    execSw s =
      .next { s with
        op := .writing, ap := 0#16, phase := .awaitingHighByte, resp := some (.ok 0x00#8), timer := none } :=
  State.admitted_start_of_idle hl hop _ _

theorem execSw_of_busy {s : State} (hl : s.Live) (hop : s.op ≠ .none) : execSw s = .next (s.rejected .startWriteBusy) :=
  State.admitted_start_of_busy hl hop _ _

theorem execSwa_of_live {s : State} (hl : s.Live) : execSwa s = .next (s.rejected .asyncUnsupported) :=
  State.admitted_reject_of_live hl _

theorem execFin_of_live {s : State} (hl : s.Live) :
    execFin s = .next { s with op := .none, resp := some (.ok 0x00#8), timer := none } :=
  State.admitted_of_live hl _

theorem execNak_of_live {s : State} (hl : s.Live) : execNak s = .next (s.rejected .nack) :=
  State.admitted_reject_of_live hl _

/-! ## The statements -/

/-- Settles O9: the word by evaluation, the two clauses by whether a transaction is open. -/
theorem startReadOpensOrIsRejected : Obligations.StartReadOpensOrIsRejected := by
  refine ⟨by decide, rfl, fun s hl => ⟨fun hop => ?idle, fun hop => ?busy⟩⟩
  case idle => exact execSr_of_idle hl hop
  case busy => exact execSr_of_busy hl hop

/-- Settles O10: the word by evaluation, the two clauses by whether a transaction is open. -/
theorem startWriteOpensOrIsRejected : Obligations.StartWriteOpensOrIsRejected := by
  refine ⟨by decide, rfl, fun s hl => ⟨fun hop => ?idle, fun hop => ?busy⟩⟩
  case idle => exact execSw_of_idle hl hop
  case busy => exact execSw_of_busy hl hop

/-- Settles O11: the handler has no branch but the rejection. -/
theorem startWriteAsyncIsAlwaysRejected : Obligations.StartWriteAsyncIsAlwaysRejected :=
  ⟨by decide, rfl, fun _ hl => execSwa_of_live hl⟩

/-- Settles O12: the handler reads no field of the bus state before it answers. -/
theorem finishClosesInEveryState : Obligations.FinishClosesInEveryState :=
  ⟨by decide, rfl, fun _ hl => execFin_of_live hl⟩

/-- Settles O13: the handler has no branch but the rejection, which leaves `op` as it was. -/
theorem nackIsAlwaysRejected : Obligations.NackIsAlwaysRejected :=
  ⟨by decide, rfl, fun _ hl => execNak_of_live hl⟩

end Sys2Proof.Machine
end

section
/-! ALARM_REEVAL (43_alarm_scheduler.md R170) as one equation per branch: the converse of the inversion lemma
`State.alarmReeval_cases`. -/

namespace Sys2Proof.Machine

/-! ## The enable bit -/

theorem State.alarmEnabled_eq_false_iff (s : State) :
    s.alarmEnabled = false ↔ s.file.read s.cfg.ctrlAddr &&& s.cfg.ctrlAlarmEnMask = 0x00#8 := by
  simp [State.alarmEnabled]

theorem State.alarmEnabled_iff (s : State) :
    s.alarmEnabled = true ↔ s.file.read s.cfg.ctrlAddr &&& s.cfg.ctrlAlarmEnMask ≠ 0x00#8 :=
  decide_eq_true_iff

/-! ## The branches, one by one -/

theorem State.alarmReeval_of_disabled {s : State} (he : s.alarmEnabled = false) : s.alarmReeval = s.disarm :=
  if_pos he

theorem State.alarmReeval_of_due {s : State} (he : s.alarmEnabled = true) (ht : s.targetSeconds = 0) :
    s.alarmReeval = s.disarm.alarmFire := by
  rw [State.alarmReeval, if_neg (by simp [he]), if_pos ht]

theorem State.alarmReeval_of_ahead {s : State} (he : s.alarmEnabled = true) (ht : s.targetSeconds ≠ 0) :
    s.alarmReeval = s.arm (s.now + s.targetSeconds * nsPerSec) := by
  rw [State.alarmReeval, if_neg (by simp [he]), if_neg ht]

/-! ## Disarming and arming write the deadline and the notification only -/

theorem State.disarm_frame (s : State) : s.disarm = { s with alarmDeadline := none, timer := s.disarm.timer } := rfl

theorem State.arm_frame (s : State) (d : Nat) :
    s.arm d = { s with alarmDeadline := some d, timer := (s.arm d).timer } := rfl

/-! ## The statement -/

/-- Settles O29: in each clause the branch's equation reduces ALARM_REEVAL to disarming, firing or arming, and the
frame of that operation is the rest. -/
theorem alarmReevalDisarmsFiresOrArms : Obligations.AlarmReevalDisarmsFiresOrArms := by
  refine fun s => ⟨fun he => ?disabled, fun he ht => ?due, fun he ht => ?ahead⟩
  case disabled =>
    rw [State.alarmReeval_of_disabled (s.alarmEnabled_eq_false_iff.mpr he)]
    exact ⟨s.disarm_alarmDeadline, s.disarm_frame⟩
  case due =>
    rw [State.alarmReeval_of_due (s.alarmEnabled_iff.mpr he) ht]
    exact ⟨s.disarm.alarmFire_alarmDeadline, congrArg State.alarmFire s.disarm_frame⟩
  case ahead =>
    rw [State.alarmReeval_of_ahead (s.alarmEnabled_iff.mpr he) ht]
    exact ⟨s.arm_alarmDeadline _, s.arm_frame _⟩

end Sys2Proof.Machine
end

section
/-! The interrupt line (44_interrupt_line.md R190 to R192): its level as the AND of the two little-endian registers, what
ALARM_FIRE does to it, and that no event but CREATE leaves it anywhere but where it was or at its level. -/

namespace Sys2Proof.Machine

/-! ## The AND of two little-endian registers -/

/-- The AND of two numbers splits at the low byte. -/
theorem and_eq_zero_iff_low_byte (x y : Nat) :
    x &&& y = 0 ↔ x % 256 &&& y % 256 = 0 ∧ x / 256 &&& y / 256 = 0 := by
  have hlow : (x &&& y) % 256 = x % 256 &&& y % 256 := Nat.and_mod_two_pow (n := 8)
  have hhigh : (x &&& y) / 256 = x / 256 &&& y / 256 := Nat.and_div_two_pow (n := 8)
  rw [← hlow, ← hhigh]
  omega

/-- Two little-endian numbers have no common bit exactly when none of their paired bytes have one. -/
theorem Memory.le_and_le_eq_zero_iff (m : Memory) (a b n : Nat) :
    m.le a n &&& m.le b n = 0 ↔ ∀ i, i < n → m.read (a + i) &&& m.read (b + i) = 0x00#8 := by
  induction n generalizing a b with
  | zero => simp [Memory.le]
  | succ n ih =>
    have hlow (c : Nat) : m.le c (n + 1) % 256 = (m.read c).toNat := by
      have := (m.read c).isLt
      simp only [Memory.le]
      omega
    have hhigh (c : Nat) : m.le c (n + 1) / 256 = m.le (c + 1) n := by
      have := (m.read c).isLt
      simp only [Memory.le]
      omega
    have hbyte : (m.read a).toNat &&& (m.read b).toNat = 0 ↔ m.read a &&& m.read b = 0x00#8 := by
      rw [← BitVec.toNat_and, ← BitVec.toNat_inj]
      rfl
    rw [and_eq_zero_iff_low_byte, hlow, hlow, hhigh, hhigh, hbyte, ih, Nat.forall_lt_succ_left']
    simp only [Nat.add_zero, Nat.add_right_comm _ 1, Nat.add_assoc]

/-! ## IRQ_REEVAL -/

/-- R190 in its second form: the level is the AND of the two registers as numbers. -/
theorem irqLevel_eq_decide_le (c : Config) (m : Memory) :
    irqLevel c m = decide (m.le c.maskAddr c.irqLen &&& m.le c.eventAddr c.irqLen ≠ 0) := by
  rw [Bool.eq_iff_iff, irqLevel_iff, decide_eq_true_iff, ne_eq, Memory.le_and_le_eq_zero_iff]
  push Not
  rfl

/-- Settles O39: the bytewise form is `irqLevel_iff`, the little-endian form is `irqLevel_eq_decide_le`, and a second run
reads the same registers. -/
theorem irqReevalIsTheRegistersAnd : Obligations.IrqReevalIsTheRegistersAnd := by
  refine fun s => ⟨?bytes, ?numbers, ?again⟩
  case bytes => exact irqLevel_iff s.cfg s.file
  case numbers => rw [← irqLevel_eq_decide_le, State.irqReeval]
  case again => rfl

/-! ## ALARM_FIRE -/

/-- R173 on the register file: the alarm-event byte gains its bit, every other byte is kept. -/
theorem State.alarmFire_read {s : State} (hw : s.file.wf) (a : Nat) :
    s.alarmFire.file.read a =
      if a = alarmEventAddr s.cfg then s.file.read a ||| s.cfg.alarmEvtMask else s.file.read a := by
  rw [State.alarmFire_file, Memory.read_write hw]
  split
  · next ha => rw [ha]
  · rfl

/-- Settles O31: the bytes are `State.alarmFire_read`, and ALARM_FIRE ends in IRQ_REEVAL. -/
theorem alarmFireSetsItsBitAndTheLine : Obligations.AlarmFireSetsItsBitAndTheLine := by
  refine fun s hw => ⟨s.alarmFire.file, s.alarmFire.irq, rfl, State.alarmFire_read hw, ?line⟩
  case line => rw [State.alarmFire_irq, irqLevel_iff]

/-- After ALARM_FIRE the alarm-event bit is set. -/
theorem State.alarmFire_event_set {s : State} (hw : s.file.wf) :
    s.alarmFire.file.read (alarmEventAddr s.cfg) &&& s.cfg.alarmEvtMask = s.cfg.alarmEvtMask := by
  rw [State.alarmFire_read hw, if_pos rfl]
  ext
  simpa using Or.inr

/-- If the mask byte shares a bit with `e`, it shares one with every byte that holds `e`. -/
theorem and_ne_zero_of_and_eq_right {m v e : Byte} (hv : v &&& e = e) (hm : m &&& e ≠ 0x00#8) : m &&& v ≠ 0x00#8 := by
  intro h
  rw [← hv, ← BitVec.and_assoc, h, BitVec.zero_and] at hm
  exact hm rfl

/-- ALARM_FIRE raises the line when the mask byte beside the alarm-event byte has the alarm-event bit: that byte lies
in the mask register, which ALARM_FIRE does not touch. -/
theorem State.alarmFire_raises_line {s : State} (hc : s.cfg.wellFormed = true) (hw : s.file.wf)
    (hm : s.file.read (s.cfg.maskAddr + s.cfg.alarmEvtOff) &&& s.cfg.alarmEvtMask ≠ 0x00#8) :
    s.alarmFire.irq = true := by
  have hoff : s.cfg.alarmEvtOff < s.cfg.irqLen := (Config.irq_of_wellFormed hc).2
  obtain ⟨-, -, hmask, -⟩ := alarmEventAddr_apart hc
  have hkept : s.alarmFire.file.read (s.cfg.maskAddr + s.cfg.alarmEvtOff) =
      s.file.read (s.cfg.maskAddr + s.cfg.alarmEvtOff) := by
    rw [State.alarmFire_read hw, if_neg (by omega)]
  rw [State.alarmFire_irq, irqLevel_iff]
  refine ⟨s.cfg.alarmEvtOff, hoff, ?_⟩
  rw [hkept]
  exact and_ne_zero_of_and_eq_right (State.alarmFire_event_set hw) hm

/-- Settles O38: an EXPIRE that answers is ALARM_FIRE on the state with the timer spent, whose registers are those of the
state before. -/
theorem dueAlarmRaisesItsUnmaskedLine : Obligations.DueAlarmRaisesItsUnmaskedLine := by
  intro s t hg h
  obtain ⟨-, _, -, -, rfl⟩ := execExpire_next h
  obtain ⟨hw, -⟩ := hg.file
  exact ⟨State.alarmFire_event_set (s := s.clearOutputs.spend) hw,
    State.alarmFire_raises_line (s := s.clearOutputs.spend) hg.config hw⟩

/-! ## Every event keeps the line or recomputes it -/

/-- From `s` to `t` the line is kept, or it is at the level of the registers in `t` (R191, R192). -/
def KeepsOrRecomputesLine (s t : State) : Prop := t.irq = s.irq ∨ t.irq = irqLevel t.cfg t.file

theorem keepsOrRecomputesLine_iff (s t : State) :
    KeepsOrRecomputesLine s t ↔
      t.irq = s.irq ∨
        (t.irq = true ↔
          ∃ j, j < t.cfg.irqLen ∧
            t.file.read (t.cfg.maskAddr + j) &&& t.file.read (t.cfg.eventAddr + j) ≠ 0x00#8) := by
  rw [KeepsOrRecomputesLine, ← irqLevel_iff, Bool.eq_iff_iff (a := t.irq) (b := irqLevel _ _)]

theorem State.rejected_keepsLine (s : State) (c : Cause) : KeepsOrRecomputesLine s (s.rejected c) := .inl rfl

theorem State.irqReeval_recomputesLine (s s' : State) : KeepsOrRecomputesLine s s'.irqReeval := .inr rfl

/-- ALARM_REEVAL moves the line only where it fires. -/
theorem State.alarmReeval_line (s : State) : KeepsOrRecomputesLine s s.alarmReeval := by
  rcases s.alarmReeval_cases with ⟨-, h⟩ | ⟨-, -, h⟩ | ⟨-, -, h⟩ <;> rw [h]
  case inl => exact .inl s.disarm_irq
  case inr.inl => exact .inr s.disarm.alarmFire_irq
  case inr.inr => exact .inl (s.arm_irq _)

/-- The side effects of a stored byte end in IRQ_REEVAL, or in ALARM_REEVAL, or are none (R135). -/
theorem State.afterStore_line (s : State) (a : Nat) : KeepsOrRecomputesLine s (s.afterStore a) := by
  rw [State.afterStore]
  by_cases ha : touchesAlarm s.cfg a = true
  · rw [if_pos ha]
    split
    · exact State.irqReeval_recomputesLine ..
    · exact s.alarmReeval_line
  · rw [if_neg ha]
    split
    · exact State.irqReeval_recomputesLine ..
    · exact .inl rfl

theorem execTx_line {d : Nat} {s t : State} (h : execTx d s = .next t) : KeepsOrRecomputesLine s t := by
  obtain ⟨-, -, ⟨-, rfl⟩ | ⟨-, rfl⟩ | ⟨-, -, rfl⟩ | ⟨-, -, -, rfl⟩ | ⟨-, -, -, rfl⟩⟩ := execTx_next h
  · exact .inl rfl
  · exact .inl rfl
  · exact s.rejected_keepsLine _
  · exact s.rejected_keepsLine _
  · exact (s.stored _).afterStore_line s.ap.toNat

theorem execRx_line {s t : State} (h : execRx s = .next t) : KeepsOrRecomputesLine s t := by
  obtain ⟨-, ⟨-, rfl⟩ | ⟨-, -, rfl⟩ | ⟨-, -, -, rfl⟩ | ⟨-, -, -, rfl⟩⟩ := execRx_next h
  · exact s.rejected_keepsLine _
  · exact s.rejected_keepsLine _
  · exact s.rejected_keepsLine _
  · exact .inl rfl

/-- RESET recomputes the line or keeps it, by `P_RESET_REEVAL_IRQ` (R232). -/
theorem execReset_line {s t : State} (h : execReset s = .next t) : KeepsOrRecomputesLine s t := by
  obtain ⟨-, rfl⟩ := execReset_next h
  rw [State.resetBody_frame, KeepsOrRecomputesLine]
  by_cases hp : s.cfg.resetReevalIrq = true
  · exact .inr (if_pos hp)
  · exact .inl (if_neg hp)

/-- EXPIRE ends in ALARM_FIRE (R175), and so in IRQ_REEVAL. -/
theorem execExpire_line {s t : State} (h : execExpire s = .next t) : KeepsOrRecomputesLine s t := by
  obtain ⟨-, _, -, -, rfl⟩ := execExpire_next h
  exact .inr (State.alarmFire_irq _)

/-- R191, R192: only a data byte, RESET and EXPIRE can move the line, and each of them recomputes it. -/
theorem exec_line {i : Instr} {s t : State} (hi : i ≠ .create) (h : exec i s = .next t) : KeepsOrRecomputesLine s t := by
  cases i with
  | sr => obtain ⟨-, ⟨-, rfl⟩ | ⟨-, rfl⟩⟩ := execSr_next h <;> exact .inl rfl
  | sw => obtain ⟨-, ⟨-, rfl⟩ | ⟨-, rfl⟩⟩ := execSw_next h <;> exact .inl rfl
  | swa => obtain ⟨-, rfl⟩ := execSwa_next h; exact s.rejected_keepsLine _
  | fin => obtain ⟨-, rfl⟩ := execFin_next h; exact .inl rfl
  | nak => obtain ⟨-, rfl⟩ := execNak_next h; exact s.rejected_keepsLine _
  | rx => exact execRx_line h
  | tx d => exact execTx_line h
  | reset => exact execReset_line h
  | expire => exact execExpire_line h
  | create => exact absurd rfl hi

/-- Settles O52, event by event (`exec_line`). -/
theorem lineIsKeptOrRecomputed : Obligations.LineIsKeptOrRecomputed :=
  fun _ s t hi h => (keepsOrRecomputesLine_iff s t).mp (exec_line hi h)

end Sys2Proof.Machine
end

section
/-! A rejection changes no state (60_exceptions.md R203): every event that answers either leaves the old state with the
rejection's own outputs, or answers something other than a rejection. -/

namespace Sys2Proof.Machine

/-! ## The answers that are no rejection -/

/-- The response is an OK or, for a format H event, absent (R91, R94). -/
def State.Performed (t : State) : Prop := ∀ c, t.resp ≠ some (.rej c)

theorem State.performed_of_ok {t : State} {b : Byte} (h : t.resp = some (.ok b)) : t.Performed := by
  intro c hc
  cases h.symm.trans hc

theorem State.performed_of_no_response {t : State} (h : t.resp = none) : t.Performed := by
  intro c hc
  cases h.symm.trans hc

/-! ## Every event is rejected or performed -/

/-- From `s` to `t` the event was rejected, with no effect but the rejection's outputs, or it was performed (R202, R203,
R207). -/
def RejectedOrPerformed (s t : State) : Prop := (∃ c, t = s.rejected c) ∨ t.Performed

theorem State.rejected_rejectedOrPerformed (s : State) (c : Cause) : RejectedOrPerformed s (s.rejected c) := .inl ⟨c, rfl⟩

theorem execSr_rejectedOrPerformed {s t : State} (h : execSr s = .next t) : RejectedOrPerformed s t := by
  obtain ⟨-, ⟨-, rfl⟩ | ⟨-, rfl⟩⟩ := execSr_next h
  · exact .inr (State.performed_of_ok rfl)
  · exact s.rejected_rejectedOrPerformed _

theorem execSw_rejectedOrPerformed {s t : State} (h : execSw s = .next t) : RejectedOrPerformed s t := by
  obtain ⟨-, ⟨-, rfl⟩ | ⟨-, rfl⟩⟩ := execSw_next h
  · exact .inr (State.performed_of_ok rfl)
  · exact s.rejected_rejectedOrPerformed _

/-- Three checks of RX reject (R206); the read that passes them answers its byte. -/
theorem execRx_rejectedOrPerformed {s t : State} (h : execRx s = .next t) : RejectedOrPerformed s t := by
  obtain ⟨-, ⟨-, rfl⟩ | ⟨-, -, rfl⟩ | ⟨-, -, -, rfl⟩ | ⟨-, -, -, rfl⟩⟩ := execRx_next h
  · exact s.rejected_rejectedOrPerformed _
  · exact s.rejected_rejectedOrPerformed _
  · exact s.rejected_rejectedOrPerformed _
  · exact .inr (State.performed_of_ok rfl)

/-- The address bytes are always taken; two checks of a data byte reject (R206), both before its store. -/
theorem execTx_rejectedOrPerformed {d : Nat} {s t : State} (h : execTx d s = .next t) : RejectedOrPerformed s t := by
  obtain ⟨-, -, ⟨-, rfl⟩ | ⟨-, rfl⟩ | ⟨-, -, rfl⟩ | ⟨-, -, -, rfl⟩ | ⟨-, -, -, rfl⟩⟩ := execTx_next h
  · exact .inr (State.performed_of_ok rfl)
  · exact .inr (State.performed_of_ok rfl)
  · exact s.rejected_rejectedOrPerformed _
  · exact s.rejected_rejectedOrPerformed _
  · exact .inr (State.performed_of_ok rfl)

/-- RESET gives no response, whatever its policy switches (R232). -/
theorem execReset_performed {s t : State} (h : execReset s = .next t) : t.Performed := by
  obtain ⟨-, rfl⟩ := execReset_next h
  apply State.performed_of_no_response
  rw [State.resetBody_resp, State.idleBus_resp, State.clearOutputs_resp]

/-- EXPIRE gives no response: ALARM_FIRE raises no rejection (R208). -/
theorem execExpire_performed {s t : State} (h : execExpire s = .next t) : t.Performed := by
  obtain ⟨-, _, -, -, rfl⟩ := execExpire_next h
  apply State.performed_of_no_response
  rw [State.alarmFire_resp, State.spend_resp, State.clearOutputs_resp]

theorem execCreate_performed {s t : State} (h : execCreate s = .next t) : t.Performed := by
  obtain ⟨-, rfl⟩ := execCreate_next h
  exact State.performed_of_no_response rfl

/-- R203, R207: no event has a partial effect. -/
theorem exec_rejectedOrPerformed {i : Instr} {s t : State} (h : exec i s = .next t) : RejectedOrPerformed s t := by
  cases i with
  | sr => exact execSr_rejectedOrPerformed h
  | sw => exact execSw_rejectedOrPerformed h
  | swa => obtain ⟨-, rfl⟩ := execSwa_next h; exact s.rejected_rejectedOrPerformed _
  | fin => obtain ⟨-, rfl⟩ := execFin_next h; exact .inr (State.performed_of_ok rfl)
  | nak => obtain ⟨-, rfl⟩ := execNak_next h; exact s.rejected_rejectedOrPerformed _
  | rx => exact execRx_rejectedOrPerformed h
  | tx d => exact execTx_rejectedOrPerformed h
  | reset => exact .inr (execReset_performed h)
  | expire => exact .inr (execExpire_performed h)
  | create => exact .inr (execCreate_performed h)

/-! ## The statement -/

/-- Settles O47: a rejection is no performed event, so `exec_rejectedOrPerformed` leaves the rejected state, and the
response names its cause. -/
theorem rejectionChangesNoState : Obligations.RejectionChangesNoState := by
  intro i s t c h hc
  obtain ⟨c', rfl⟩ | hp := exec_rejectedOrPerformed h
  · cases hc
    rfl
  · exact absurd hc (hp c)

end Sys2Proof.Machine
end

section
/-! The command words (30_encoding.md R91 to R98): the decoder and the encoder are inverse to each other, and how a step
takes its word from the waiting events. -/

namespace Sys2Proof.Machine

/-! ## The two fields of a command word -/

theorem cmdOpc_toNat (w : Cmd) : (cmdOpc w).toNat = w.toNat / 256 := by
  have := w.isLt
  rw [cmdOpc, BitVec.extractLsb'_toNat, Nat.shiftRight_eq_div_pow]
  omega

theorem cmdData_toNat (w : Cmd) : (cmdData w).toNat = w.toNat % 256 := by
  rw [cmdData, BitVec.extractLsb'_toNat, Nat.shiftRight_zero]

theorem cmdOpc_encode (i : Instr) : cmdOpc (encode i) = opcodeOf i := (Laws.EncodeFields.fields_append _ _).1

theorem cmdData_encode (i : Instr) : cmdData (encode i) = dataOf i := (Laws.EncodeFields.fields_append _ _).2

/-- A command word is its two fields and nothing else (R92). -/
theorem cmdOpc_append_cmdData (w : Cmd) : cmdOpc w ++ cmdData w = w := by
  apply BitVec.eq_of_toNat_eq
  rw [BitVec.toNat_append, ← Nat.shiftLeft_add_eq_or_of_lt (cmdData w).isLt, Nat.shiftLeft_eq, cmdOpc_toNat,
    cmdData_toNat]
  exact Nat.div_add_mod' _ _

/-- An event is encoded as `w` when its opcode and data fields are those of `w`. -/
theorem encode_eq_of_fields {w : Cmd} {i : Instr} (ho : opcodeOf i = cmdOpc w) (hd : dataOf i = cmdData w) :
    encode i = w := by
  rw [encode, ho, hd, cmdOpc_append_cmdData]

/-! ## The opcode column of R91, read in both directions -/

/-- A row of the table without a data field is found under its own opcode, and no row stands under 0x6. -/
theorem plainEvent_some :
    ∀ o : BitVec 4, ∀ i ∈ plainEvent o, o ≠ 0x6#4 ∧ opcodeOf i = o ∧ dataOf i = 0x00#8 ∧ i.wellFormed = true := by
  decide

/-- The opcodes under which no row stands (R97). -/
theorem plainEvent_eq_none_iff :
    ∀ o : BitVec 4, plainEvent o = none ↔ o.toNat = 0x6 ∨ o.toNat = 0x7 ∨ 0xB ≤ o.toNat := by decide

/-! ## The decoder, once for each of its answers -/

theorem decode_of_tx {w : Cmd} (h : cmdOpc w = 0x6#4) : decode w = .event (.tx (cmdData w).toNat) := if_pos h

theorem decode_of_plain {w : Cmd} {i : Instr} (hp : plainEvent (cmdOpc w) = some i) (hd : cmdData w = 0x00#8) :
    decode w = .event i := by
  have ho := (plainEvent_some _ _ hp).1
  simp only [decode, if_neg ho, hp, if_pos hd]

theorem decode_of_no_row {w : Cmd} (ho : cmdOpc w ≠ 0x6#4) (hp : plainEvent (cmdOpc w) = none) :
    decode w = .reserved (.opcode (cmdOpc w)) := by
  simp only [decode, if_neg ho, hp]

theorem decode_of_data {w : Cmd} {i : Instr} (hp : plainEvent (cmdOpc w) = some i) (hd : cmdData w ≠ 0x00#8) :
    decode w = .reserved (.data (cmdOpc w) (cmdData w)) := by
  have ho := (plainEvent_some _ _ hp).1
  simp only [decode, if_neg ho, hp, if_neg hd]

/-- R93, R97: a word is a TX, another row of the table with an empty data field, or reserved for one of two reasons. -/
theorem decode_cases (w : Cmd) :
    (cmdOpc w = 0x6#4 ∧ decode w = .event (.tx (cmdData w).toNat)) ∨
    (∃ i, plainEvent (cmdOpc w) = some i ∧ cmdData w = 0x00#8 ∧ decode w = .event i) ∨
    (cmdOpc w ≠ 0x6#4 ∧ plainEvent (cmdOpc w) = none ∧ decode w = .reserved (.opcode (cmdOpc w))) ∨
    (∃ i, plainEvent (cmdOpc w) = some i ∧ cmdData w ≠ 0x00#8 ∧
      decode w = .reserved (.data (cmdOpc w) (cmdData w))) := by
  by_cases ho : cmdOpc w = 0x6#4
  · exact .inl ⟨ho, decode_of_tx ho⟩
  cases hp : plainEvent (cmdOpc w) with
  | none => exact .inr (.inr (.inl ⟨ho, rfl, decode_of_no_row ho hp⟩))
  | some i =>
    by_cases hd : cmdData w = 0x00#8
    · exact .inr (.inl ⟨i, rfl, hd, decode_of_plain hp hd⟩)
    · exact .inr (.inr (.inr ⟨i, rfl, hd, decode_of_data hp hd⟩))

/-! ## The statements about the decoder -/

/-- Every event but TX is found in its row with an empty data field. -/
theorem decode_encode_of_plain {i : Instr} (hp : plainEvent (opcodeOf i) = some i) : decode (encode i) = .event i := by
  obtain ⟨-, -, hd, -⟩ := plainEvent_some _ _ hp
  exact decode_of_plain (by rw [cmdOpc_encode, hp]) (by rw [cmdData_encode, hd])

theorem decode_encode_tx {d : Nat} (hd : d < 256) : decode (encode (.tx d)) = .event (.tx d) := by
  rw [decode_of_tx (cmdOpc_encode (.tx d)), cmdData_encode, dataOf, BitVec.toNat_ofNat, Nat.mod_eq_of_lt hd]

/-- Settles O2: TX through its data field, every other event through its row of the table. -/
theorem encodedEventDecodesToItself : Obligations.EncodedEventDecodesToItself := by
  intro i hi
  cases i with
  | tx d => exact decode_encode_tx (of_decide_eq_true hi)
  | sr | sw | swa | fin | nak | rx | reset | expire | create => exact decode_encode_of_plain rfl

/-- Settles O3: in the two cases in which a word decodes to an event, the event has the word's fields. -/
theorem decodedWordIsItsEncoding : Obligations.DecodedWordIsItsEncoding := by
  intro w i h
  obtain ⟨ho, h'⟩ | ⟨j, hp, hd, h'⟩ | ⟨-, -, h'⟩ | ⟨-, -, -, h'⟩ := decode_cases w <;> cases h.symm.trans h'
  case inl =>
    exact ⟨decide_eq_true (cmdData w).isLt, encode_eq_of_fields ho.symm (BitVec.ofNat_toNat ..)⟩
  case inr.inl =>
    obtain ⟨-, hop, hdata, hw⟩ := plainEvent_some _ _ hp
    exact ⟨hw, encode_eq_of_fields hop (hdata.trans hd.symm)⟩

/-- R97 on the fields: no row under the opcode, or a data field where the row has none. -/
theorem decode_reserved_iff (w : Cmd) :
    (∃ why, decode w = .reserved why) ↔
      cmdOpc w ≠ 0x6#4 ∧ (plainEvent (cmdOpc w) = none ∨ cmdData w ≠ 0x00#8) := by
  obtain ⟨ho, h⟩ | ⟨j, hp, hd, h⟩ | ⟨ho, hp, h⟩ | ⟨j, hp, hd, h⟩ := decode_cases w
  · simp [h, ho]
  · simp [h, hp, hd]
  · simp [h, hp, ho]
  · simp [h, hd, (plainEvent_some _ _ hp).1]

/-- Settles O4: `decode_reserved_iff`, with the fields and the table's gaps as numbers. -/
theorem reservedWordsAreExactlyThese : Obligations.ReservedWordsAreExactlyThese := by
  intro w
  rw [decode_reserved_iff, plainEvent_eq_none_iff, ne_eq, ne_eq, ← BitVec.toNat_inj, ← BitVec.toNat_inj, cmdOpc_toNat,
    cmdData_toNat]
  show ¬ w.toNat / 256 = 6 ∧ (_ ∨ ¬ w.toNat % 256 = 0) ↔ _
  omega

/-- Settles O8, line by line: the word of each assembled event is its line's encoding. -/
theorem assembledProgramCarriesItsLines : Obligations.AssembledProgramCarriesItsLines := by
  intro c t ls hw
  induction ls generalizing t with
  | nil => rfl
  | cons l ls ih =>
    rw [List.forall_mem_cons] at hw
    obtain ⟨hl, hls⟩ := hw
    rw [assemble, List.map_cons, List.map_cons, ih _ hls]
    exact congrArg (· :: _) (encodedEventDecodesToItself l.event hl)

/-- Settles O1: fourteen words, each by evaluation of the decoder. -/
theorem tableWordsDecode : Obligations.TableWordsDecode := by
  unfold Obligations.TableWordsDecode
  decide

/-! ## How a step takes its event -/

theorem State.clockSteppedBack_eq_false {s : State} {e : Event} (h : s.created = true → s.now ≤ e.now) :
    s.clockSteppedBack e = false := by
  simpa [State.clockSteppedBack] using h

theorem step_of_no_event {s : State} (h : s.events = []) : step s = .refused .noEvent := by
  simp only [step, State.fetch, h]

theorem step_of_clock_back {s : State} {e : Event} {rest : List Event} (he : s.events = e :: rest)
    (h : s.clockSteppedBack e = true) : step s = .refused .clockBackwards := by
  simp only [step, State.fetch, he, h, if_true]

theorem step_of_reserved {s : State} {e : Event} {rest : List Event} {why : Reserved} (he : s.events = e :: rest)
    (h : s.clockSteppedBack e = false) (hd : decode e.cmd = .reserved why) :
    step s = .refused (.reservedWord e.cmd) := by
  simp only [step, State.fetch, he, h, hd, Bool.false_eq_true, if_false]

theorem step_of_event {s : State} {e : Event} {rest : List Event} {i : Instr} (he : s.events = e :: rest)
    (h : s.clockSteppedBack e = false) (hd : decode e.cmd = .event i) : step s = exec i (s.accept e rest) := by
  simp only [step, State.fetch, he, h, hd, Bool.false_eq_true, if_false]

/-- A step that answers has run the event its head word decodes to (R6), with a clock that did not step back (HO1). -/
theorem step_next {s t : State} (h : step s = .next t) :
    ∃ e rest i, (s.created = true → s.now ≤ e.now) ∧ exec i (s.accept e rest) = .next t := by
  cases he : s.events with
  | nil => cases (step_of_no_event he).symm.trans h
  | cons e rest =>
    cases hc : s.clockSteppedBack e with
    | true => cases (step_of_clock_back he hc).symm.trans h
    | false =>
      cases hd : decode e.cmd with
      | reserved why => cases (step_of_reserved he hc hd).symm.trans h
      | event i =>
        have hnow : s.created = true → s.now ≤ e.now := by simpa [State.clockSteppedBack] using hc
        exact ⟨e, rest, i, hnow, (step_of_event he hc hd).symm.trans h⟩

/-- Settles O5, from `step_of_event`. -/
theorem stepRunsTheDecodedEvent : Obligations.StepRunsTheDecodedEvent :=
  fun _ _ _ _ he hc hd => step_of_event he (State.clockSteppedBack_eq_false hc) hd

/-- Settles O6: the three refusals of fetch, one equation each. -/
theorem stepRefusesInputsWithoutStep : Obligations.StepRefusesInputsWithoutStep := by
  refine ⟨fun s he => ?noEvent, fun s e rest he hi hb => ?clockBack, fun s e rest why he hc hd => ?reserved⟩
  case noEvent => exact step_of_no_event he
  case clockBack => exact step_of_clock_back he (by simp [State.clockSteppedBack, hi, hb])
  case reserved => exact step_of_reserved he (State.clockSteppedBack_eq_false hc) hd

/-- The table reads an event from a 12-bit number only, and then the event is the one its word decodes to. -/
theorem decodeTableWord_some {nbits w : Nat} {i : Instr} (h : decodeTableWord nbits w = some i) :
    w < 4096 ∧ decode (BitVec.ofNat 12 w) = .event i := by
  rw [decodeTableWord] at h
  by_cases hw : w < 4096
  · rw [if_pos hw] at h
    cases hd : decode (BitVec.ofNat 12 w) with
    | event j =>
      rw [hd] at h
      cases h
      exact ⟨hw, rfl⟩
    | reserved why =>
      rw [hd] at h
      cases h
  · rw [if_neg hw] at h
    cases h

/-- Settles O7: the placed event is first in the list and carries the clock of the state, which is no step back. -/
theorem placedWordRunsNext : Obligations.PlacedWordRunsNext := by
  intro s nbits w i h
  obtain ⟨hw, hd⟩ := decodeTableWord_some h
  have hplaced : s.withFetchWord nbits w = { s with events := s.wordEvent w :: s.events } := if_pos hw
  have hclock : (s.withFetchWord nbits w).clockSteppedBack (s.wordEvent w) = false :=
    State.clockSteppedBack_eq_false fun _ => by rw [hplaced]; exact le_refl s.now
  rw [step_of_event (by rw [hplaced]) hclock hd, hplaced]
  rfl

end Sys2Proof.Machine
end

section
/-! Every step keeps a good state (10_state.md R39, section 5): each event is taken apart by its inversion lemma, and
the operations that restore INV3 and INV4 after a store have a lemma each. -/

namespace Sys2Proof.Machine

/-! ## The register file inside its bounds -/

theorem State.fileOk_write {s : State} (h : s.FileOk) {a : Nat} (ha : a < s.cfg.regSize) (v : Byte) :
    State.FileOk { s with file := s.file.write a v } :=
  ⟨Memory.wf_write h.1 a v, Memory.bound_write h.2 ha⟩

theorem State.fileOk_writeBytes {s : State} (h : s.FileOk) {a : Nat} {bs : List Byte}
    (ha : a + bs.length ≤ s.cfg.regSize) :
    State.FileOk { s with file := s.file.writeBytes a bs } :=
  ⟨Memory.wf_writeBytes h.1 a bs, Memory.bound_writeBytes h.2 ha⟩

theorem alarmEventAddr_lt {c : Config} (h : c.wellFormed = true) : alarmEventAddr c < c.regSize := by
  have := (alarmEventAddr_mem h).2
  obtain ⟨-, -, hevent, -⟩ := Config.inFile_of_wellFormed h
  omega

/-! ## INV4 as the level of the line -/

theorem State.inv4_iff (s : State) :
    s.Inv4 ↔ (s.cfg.irqReevalOnWrite = true → s.cfg.resetReevalIrq = true → s.irq = irqLevel s.cfg s.file) := by
  simp only [State.Inv4, ← irqLevel_iff, ← Bool.eq_iff_iff]

/-- The level depends on no byte outside the two interrupt registers. -/
theorem irqLevel_of_read_eq {c : Config} {m m' : Memory}
    (h : ∀ a, (c.maskAddr ≤ a ∧ a < c.maskAddr + c.irqLen) ∨ (c.eventAddr ≤ a ∧ a < c.eventAddr + c.irqLen) →
      m.read a = m'.read a) : irqLevel c m = irqLevel c m' :=
  irqLevel_congr fun i hi => ⟨h _ (.inl ⟨by omega, by omega⟩), h _ (.inr ⟨by omega, by omega⟩)⟩

/-- With no bit set in the mask register the level is low. -/
theorem irqLevel_of_mask_zero {c : Config} {m : Memory}
    (h : ∀ a, c.maskAddr ≤ a → a < c.maskAddr + c.irqLen → m.read a = 0x00#8) : irqLevel c m = false := by
  rw [Bool.eq_false_iff, ne_eq, irqLevel_iff]
  rintro ⟨i, hi, hb⟩
  rw [h _ (by omega) (by omega), BitVec.zero_and] at hb
  exact hb rfl

/-! ## What a store leaves to be restored -/

/-- A good state but for INV3 and INV4: what ALARM_REEVAL and IRQ_REEVAL find after a store. -/
structure State.Sound (s : State) : Prop where
  config : s.cfg.wellFormed = true
  snapshot : s.snapshot.length = s.cfg.snapLen
  clock : s.rtcOffset ≤ s.now
  file : s.FileOk
  inv1 : s.Inv1
  inv2 : s.Inv2
  inv5 : s.Inv5

theorem State.Sound.good {s : State} (h : s.Sound) (h3 : s.Inv3) (h4 : s.Inv4) : s.Good :=
  { h with inv3 := h3, inv4 := h4 }

/-- Dropping the deadline keeps all of it: INV5 speaks of a pending deadline only. -/
theorem State.Sound.disarm {s : State} (h : s.Sound) : s.disarm.Sound := { h with inv5 := fun d hd => by cases hd }

theorem State.inv3_of_not_pending {s : State} (h : s.alarmDeadline = none) : s.Inv3 := fun _ hp => absurd h hp

/-- IRQ_REEVAL restores INV4. -/
theorem State.irqReeval_good {s : State} (h : s.Sound) (h3 : s.Inv3) : s.irqReeval.Good :=
  State.Sound.good { h with } h3 ((State.inv4_iff _).mpr fun _ _ => rfl)

/-- ALARM_FIRE with no alarm pending leaves a good state. -/
theorem State.alarmFire_good {s : State} (h : s.Sound) (hp : s.alarmDeadline = none) : s.alarmFire.Good :=
  State.irqReeval_good { h with file := State.fileOk_write h.file (alarmEventAddr_lt h.config) _ }
    (State.inv3_of_not_pending hp)

/-- ALARM_REEVAL restores INV3: only with the enable bit set does it leave a deadline. -/
theorem State.alarmReeval_good {s : State} (h : s.Sound) (h4 : s.Inv4) : s.alarmReeval.Good := by
  obtain ⟨-, hr⟩ | ⟨-, -, hr⟩ | ⟨he, hk, hr⟩ := s.alarmReeval_cases <;> rw [hr]
  case inl => exact State.Sound.good h.disarm (State.inv3_of_not_pending rfl) h4
  case inr.inl => exact State.alarmFire_good h.disarm rfl
  case inr.inr =>
    refine State.Sound.good { h with inv5 := ?inv5 } (fun _ _ => s.alarmEnabled_iff.mp he) h4
    intro d hd
    cases hd
    exact ⟨s.now, s.targetSeconds, h.clock, le_refl _, hk, s.targetSeconds_lt, rfl⟩

/-! ## The side effects of a stored byte -/

theorem touchesIrq_of_touchesAlarm {c : Config} (hc : c.wellFormed = true) {a : Nat} (ha : touchesAlarm c a = true) :
    touchesIrq c a = false := by
  obtain ⟨hm, he⟩ := not_irq_of_touchesAlarm hc ha
  rw [Bool.eq_false_iff, ne_eq, touchesIrq_iff]
  rintro ⟨-, h | h⟩
  · exact hm h
  · exact he h

/-- In a well-formed configuration a stored byte has one side effect or none (R135, R70). -/
theorem State.afterStore_cases {s : State} (hc : s.cfg.wellFormed = true) (a : Nat) :
    (touchesAlarm s.cfg a = true ∧ s.afterStore a = s.alarmReeval) ∨
    (touchesAlarm s.cfg a = false ∧ touchesIrq s.cfg a = true ∧ s.afterStore a = s.irqReeval) ∨
    (touchesAlarm s.cfg a = false ∧ touchesIrq s.cfg a = false ∧ s.afterStore a = s) := by
  rw [State.afterStore]
  cases ha : touchesAlarm s.cfg a with
  | true =>
    have hcfg : s.alarmReeval.cfg = s.cfg := by
      rcases s.alarmReeval_cases with ⟨-, h⟩ | ⟨-, -, h⟩ | ⟨-, -, h⟩ <;> rw [h] <;> rfl
    rw [if_pos rfl, hcfg, touchesIrq_of_touchesAlarm hc ha]
    exact .inl ⟨rfl, rfl⟩
  | false =>
    cases hi : touchesIrq s.cfg a with
    | true => exact .inr (.inl ⟨rfl, rfl, if_pos hi⟩)
    | false => exact .inr (.inr ⟨rfl, rfl, if_neg (by simp [hi])⟩)

/-- The state with the byte stored, before the side effects. -/
theorem State.stored_sound {s : State} (h : s.Good) (hp : s.phase = .addressComplete) (ha : s.ap.toNat < s.cfg.regSize)
    (d : Byte) : (s.stored d).Sound where
  config := h.config
  snapshot := h.snapshot
  clock := h.clock
  file := State.fileOk_write h.file ha d
  inv1 := fun hh => by cases hp.symm.trans hh
  inv2 := fun hl => by cases hp.symm.trans hl
  inv5 := h.inv5

/-- A byte stored outside the control register keeps INV3. -/
theorem State.stored_inv3 {s : State} (h : s.Good) (ha : s.ap.toNat ≠ s.cfg.ctrlAddr) (d : Byte) :
    (s.stored d).Inv3 := by
  have hkept : (s.stored d).file.read s.cfg.ctrlAddr = s.file.read s.cfg.ctrlAddr :=
    (Memory.read_write h.file.1 _ _ _).trans (if_neg ha.symm)
  intro hr hp
  show (s.stored d).file.read s.cfg.ctrlAddr &&& _ ≠ _
  rw [hkept]
  exact h.inv3 hr hp

/-- A byte stored where no IRQ_REEVAL follows keeps INV4. -/
theorem State.stored_inv4 {s : State} (h : s.Good) (ha : touchesIrq s.cfg s.ap.toNat = false) (d : Byte) :
    (s.stored d).Inv4 := by
  refine (State.inv4_iff _).mpr fun hw hr => ((State.inv4_iff _).mp h.inv4 hw hr).trans ?_
  refine irqLevel_of_read_eq fun a hreg => ((Memory.read_write h.file.1 _ _ _).trans (if_neg ?_)).symm
  rintro rfl
  rw [Bool.eq_false_iff, ne_eq, touchesIrq_iff] at ha
  exact ha ⟨hw, hreg⟩

theorem ne_ctrlAddr_of_not_touchesAlarm {c : Config} {a : Nat} (ha : touchesAlarm c a = false) : a ≠ c.ctrlAddr := by
  rintro rfl
  simp [touchesAlarm] at ha

/-- A data byte keeps a good state: whichever invariant the store may break, the side effect of its address restores. -/
theorem State.afterData_good {s : State} (h : s.Good) (hp : s.phase = .addressComplete)
    (ha : s.ap.toNat < s.cfg.regSize) (d : Byte) : (s.afterData d).Good := by
  have hs := State.stored_sound h hp ha d
  have hg : ((s.stored d).afterStore s.ap.toNat).Good := by
    obtain ⟨hal, hr⟩ | ⟨hal, -, hr⟩ | ⟨hal, hirq, hr⟩ := State.afterStore_cases hs.config s.ap.toNat <;> rw [hr]
    case inl => exact State.alarmReeval_good hs (State.stored_inv4 h (touchesIrq_of_touchesAlarm h.config hal) d)
    case inr.inl => exact State.irqReeval_good hs (State.stored_inv3 h (ne_ctrlAddr_of_not_touchesAlarm hal) d)
    case inr.inr =>
      exact hs.good (State.stored_inv3 h (ne_ctrlAddr_of_not_touchesAlarm hal) d) (State.stored_inv4 h hirq d)
  exact { hg with }

/-! ## A byte-out request -/

/-- Outside the window the file is read as it stands. -/
theorem State.readFile_of_not_window {s : State} (h : ¬ (s.cfg.clkAddr ≤ s.ap.toNat ∧ s.ap.toNat < s.cfg.clkAddr + 7)) :
    s.readFile = s.file :=
  if_neg (by rwa [inClockWindow_iff])

theorem State.readFile_of_window {s : State} (h : s.cfg.clkAddr ≤ s.ap.toNat ∧ s.ap.toNat < s.cfg.clkAddr + 7) :
    s.readFile = s.file.writeBytes s.cfg.clkAddr (pack7 s.currentTick) :=
  if_pos ((inClockWindow_iff _ _).mpr h)

/-- MATERIALIZE_CLOCK writes window bytes only (R155). -/
theorem State.readFile_read_of_not_window {s : State} (hw : s.file.wf) {a : Nat}
    (ha : ¬ (s.cfg.clkAddr ≤ a ∧ a < s.cfg.clkAddr + 7)) : s.readFile.read a = s.file.read a := by
  rw [State.readFile]
  split
  · rw [Memory.read_writeBytes hw, pack7_length, if_neg ha]
  · rfl

theorem State.fileOk_readFile {s : State} (h : s.FileOk) (hc : s.cfg.wellFormed = true) :
    State.FileOk { s with file := s.readFile } := by
  obtain ⟨-, -, -, -, -, hclk, -⟩ := Config.inFile_of_wellFormed hc
  rw [State.readFile]
  split
  · exact State.fileOk_writeBytes h hclk
  · exact h

/-- A performed RX keeps a good state: the window holds no byte that INV3 or INV4 reads. -/
theorem State.afterRead_good {s : State} (h : s.Good) (hp : s.phase = .addressComplete) : s.afterRead.Good where
  config := h.config
  snapshot := h.snapshot
  clock := h.clock
  file := State.fileOk_readFile h.file h.config
  inv1 := fun hh => by cases hp.symm.trans hh
  inv2 := fun hl => by cases hp.symm.trans hl
  inv3 := by
    have hctrl : s.readFile.read s.cfg.ctrlAddr = s.file.read s.cfg.ctrlAddr :=
      State.readFile_read_of_not_window h.file.1 fun hwin => by
        obtain ⟨-, -, hne, -⟩ := clockWindow_apart h.config hwin
        exact hne rfl
    intro hr hd
    show s.readFile.read s.cfg.ctrlAddr &&& _ ≠ _
    rw [hctrl]
    exact h.inv3 hr hd
  inv4 := by
    refine (State.inv4_iff _).mpr fun hw hr => ((State.inv4_iff _).mp h.inv4 hw hr).trans ?_
    refine irqLevel_of_read_eq fun a hreg => (State.readFile_read_of_not_window h.file.1 fun hwin => ?_).symm
    obtain ⟨hm, he, -⟩ := clockWindow_apart h.config hwin
    exact hreg.elim hm he
  inv5 := h.inv5

/-! ## The three host events -/

/-- What RESET leaves in the register file of a well-formed device (R232). -/
theorem State.fileOk_resetFile {s : State} (h : s.FileOk) (hc : s.cfg.wellFormed = true)
    (hn : s.snapshot.length = s.cfg.snapLen) : State.FileOk { s with file := s.resetFile.file } := by
  obtain ⟨hid, -, -, -, -, -, hscratch⟩ := Config.inFile_of_wellFormed hc
  obtain ⟨-, hsnap⟩ := Config.scratch_of_wellFormed hc
  have hclear : State.FileOk { s with file := s.file.clear 0 s.cfg.regSize } :=
    ⟨Memory.wf_clear h.1 _ _, Memory.bound_clear h.2 _ _⟩
  have hfill := State.fileOk_writeBytes hclear (a := s.cfg.idBase) (bs := List.replicate s.cfg.idLen idFill)
    (by rw [List.length_replicate]; exact hid)
  rw [State.resetFile_of_wellFormed hc hn]
  dsimp only
  split
  · exact State.fileOk_writeBytes hfill (a := s.cfg.snapAddr) (bs := s.snapshot)
      (show s.cfg.snapAddr + s.snapshot.length ≤ s.cfg.regSize by omega)
  · exact hfill

/-- RESET keeps a good state: its switches drop the deadline whose control bit it clears, and recompute the line. -/
theorem State.resetBody_good {s : State} (h : s.Good) (hphase : s.phase = .awaitingHighByte) (hap : s.ap = 0#16) :
    s.resetFile.resetAlarm.resetIrq.Good := by
  rw [State.resetBody_frame]
  exact
    { config := h.config
      snapshot := h.snapshot
      clock := h.clock
      file := State.fileOk_resetFile h.file h.config h.snapshot
      inv1 := fun _ => hap
      inv2 := fun hl => by cases hphase.symm.trans hl
      inv3 := fun hr hd => absurd (if_pos hr) hd
      inv4 := (State.inv4_iff _).mpr fun _ hr => if_pos hr
      inv5 := by
        intro d hd
        dsimp only at hd
        split at hd
        · cases hd
        · exact h.inv5 d hd }

theorem State.idleBus_good {s : State} (h : s.Good) : s.clearOutputs.idleBus.Good :=
  { h with inv1 := fun _ => rfl, inv2 := fun hl => by cases hl }

/-- The bytes of a new device: the snapshot in its field, zero elsewhere (R230). -/
theorem State.createdFrom_read (s : State) (a : Nat) :
    s.createdFrom.file.read a =
      if s.argCfg.snapAddr ≤ a ∧ a < s.argCfg.snapAddr + s.argSnapshot.length then
        s.argSnapshot.getD (a - s.argCfg.snapAddr) 0x00#8
      else 0x00#8 := by
  rw [State.createdFrom, Memory.read_writeBytes Memory.wf_nil, Memory.read_nil]

/-- CREATE leaves a good state: no alarm is pending, and the mask register is zero. -/
theorem State.createdFrom_good {s : State} (h : s.Creatable) : s.createdFrom.Good := by
  obtain ⟨-, hc, hn⟩ := h
  obtain ⟨-, -, -, -, -, -, hscratch⟩ := Config.inFile_of_wellFormed hc
  obtain ⟨hbase, hsnap⟩ := Config.scratch_of_wellFormed hc
  obtain ⟨-, -, -, -, -, -, -, hmask, -⟩ := Config.apart_of_wellFormed hc
  exact
    { config := hc
      snapshot := hn
      clock := le_refl _
      file := ⟨Memory.wf_writeBytes Memory.wf_nil _ _, Memory.bound_writeBytes (by simp)
        (show s.argCfg.snapAddr + s.argSnapshot.length ≤ s.argCfg.regSize by omega)⟩
      inv1 := fun _ => rfl
      inv2 := fun hl => by cases hl
      inv3 := State.inv3_of_not_pending rfl
      inv4 := by
        refine (State.inv4_iff _).mpr fun _ _ => (irqLevel_of_mask_zero fun a h1 h2 => ?_).symm
        change s.argCfg.maskAddr ≤ a at h1
        change a < s.argCfg.maskAddr + s.argCfg.irqLen at h2
        simp only [disjointRanges] at hmask
        rw [State.createdFrom_read, if_neg (by omega)]
      inv5 := fun d hd => by cases hd }

/-! ## Every event -/

theorem State.rejected_good {s : State} (h : s.Good) (c : Cause) : (s.rejected c).Good := { h with }

/-- A TX keeps a good state; the two address bytes need INV1 and the phase. -/
theorem execTx_good {d : Nat} {s t : State} (hg : s.Good) (h : execTx d s = .next t) : t.Good := by
  obtain ⟨-, -, ⟨hp, rfl⟩ | ⟨-, rfl⟩ | ⟨-, -, rfl⟩ | ⟨-, -, -, rfl⟩ | ⟨hp, -, ha, rfl⟩⟩ := execTx_next h
  · refine { hg with inv1 := fun hh => (by cases hh), inv2 := fun _ => ?_ }
    rw [withHighByte_toNat, hg.inv1 hp, Nat.mul_add_mod]
    rfl
  · exact { hg with inv1 := fun hh => (by cases hh), inv2 := fun hl => (by cases hl) }
  · exact State.rejected_good hg _
  · exact State.rejected_good hg _
  · exact State.afterData_good hg hp ha _

theorem execRx_good {s t : State} (hg : s.Good) (h : execRx s = .next t) : t.Good := by
  obtain ⟨-, ⟨-, rfl⟩ | ⟨-, -, rfl⟩ | ⟨-, -, -, rfl⟩ | ⟨-, hp, -, rfl⟩⟩ := execRx_next h
  · exact State.rejected_good hg _
  · exact State.rejected_good hg _
  · exact State.rejected_good hg _
  · exact State.afterRead_good hg hp

/-- The handler of every event but CREATE keeps a good state. -/
theorem exec_good {i : Instr} {s t : State} (hi : i ≠ .create) (hg : s.Good) (h : exec i s = .next t) : t.Good := by
  cases i with
  | sr => obtain ⟨-, ⟨-, rfl⟩ | ⟨-, rfl⟩⟩ := execSr_next h <;> exact { hg with }
  | sw =>
    obtain ⟨-, ⟨-, rfl⟩ | ⟨-, rfl⟩⟩ := execSw_next h
    · exact { hg with inv1 := fun _ => rfl, inv2 := fun hl => by cases hl }
    · exact State.rejected_good hg _
  | swa => obtain ⟨-, rfl⟩ := execSwa_next h; exact State.rejected_good hg _
  | fin => obtain ⟨-, rfl⟩ := execFin_next h; exact { hg with }
  | nak => obtain ⟨-, rfl⟩ := execNak_next h; exact State.rejected_good hg _
  | rx => exact execRx_good hg h
  | tx d => exact execTx_good hg h
  | reset => obtain ⟨-, rfl⟩ := execReset_next h; exact State.resetBody_good (State.idleBus_good hg) rfl rfl
  | expire =>
    obtain ⟨-, _, -, -, rfl⟩ := execExpire_next h
    exact State.alarmFire_good { hg with inv5 := fun d hd => by cases hd } rfl
  | create => exact absurd rfl hi

/-- Every event but CREATE stands behind the guard of the host obligations (R15). -/
theorem exec_eq_admitted {i : Instr} (hi : i ≠ .create) :
    ∃ handler : State → Result, ∀ s, exec i s = s.admitted handler := by
  cases i with
  | sr | sw | swa | fin | nak | rx | tx | reset | expire =>
    simp only [exec, execSr, execSw, execSwa, execFin, execNak, execRx, execTx, execReset, execExpire]
    exact ⟨_, fun _ => rfl⟩
  | create => exact absurd rfl hi

/-- Every event but CREATE meets a live device. -/
theorem exec_next_live {i : Instr} {s t : State} (hi : i ≠ .create) (h : exec i s = .next t) : s.Live := by
  obtain ⟨handler, hadm⟩ := exec_eq_admitted hi
  rw [hadm] at h
  exact (State.admitted_next h).1

/-- Taking an event keeps a good state when the clock has not stepped back. -/
theorem State.accept_good {s : State} (h : s.Good) {e : Event} (he : s.now ≤ e.now) (rest : List Event) :
    (s.accept e rest).Good :=
  { h with
    clock := le_trans h.clock he
    inv5 := fun d hd => by
      obtain ⟨t, k, h1, h2, h3⟩ := h.inv5 d hd
      exact ⟨t, k, h1, le_trans h2 he, h3⟩ }

/-- Settles O58: the head event is taken (`State.accept_good`); CREATE makes a good state, and every other event meets a
created device, whose good state it keeps (`exec_good`). -/
theorem stepKeepsGoodStates : Obligations.StepKeepsGoodStates := by
  intro s t hs h _
  obtain ⟨e, rest, i, hnow, h⟩ := step_next h
  by_cases hi : i = .create
  · subst hi
    obtain ⟨hcreatable, rfl⟩ := execCreate_next h
    exact State.createdFrom_good hcreatable
  · have hcreated : s.created = true := (exec_next_live hi h).1
    exact exec_good hi (State.accept_good (hs hcreated) (hnow hcreated) rest) h

/-- Settles O59: the file is canonical and in bounds by evaluation, no alarm is pending, the line is at its level. -/
theorem resetStateIsGood : Obligations.ResetStateIsGood :=
  ⟨rfl,
    { config := by decide
      snapshot := by decide
      clock := le_refl _
      file := by decide
      inv1 := fun _ => rfl
      inv2 := fun hl => by cases hl
      inv3 := State.inv3_of_not_pending rfl
      inv4 := (State.inv4_iff _).mpr fun _ _ => by decide
      inv5 := fun d hd => by cases hd }⟩

end Sys2Proof.Machine
end

section
/-! The tick clock (42_tick_clock.md R150 to R154): monotony and rate of the tick, and the reading of the packed
window. -/

namespace Sys2Proof.Machine

/-! ## The sub-second functions -/

/-- R151's function counts from the start of the second it is in. -/
theorem subTicks_eq (e : Nat) : subTicks e = e % 1000000000 * 32768 / 1000000000 := by
  have hsplit : e * 32768 / 1000000000 = e / 1000000000 * 32768 + e % 1000000000 * 32768 / 1000000000 := by omega
  have hlt : e % 1000000000 * 32768 / 1000000000 < 32768 := by omega
  show e * 32768 / 1000000000 % 32768 = _
  rw [hsplit, Nat.mul_add_mod_self_right, Nat.mod_eq_of_lt hlt]

/-- Within one second R151's own function does not decrease. -/
theorem subTicks_le_of_same_second {e e' : Nat} (h : e ≤ e') (hs : e / 1000000000 = e' / 1000000000) :
    subTicks e ≤ subTicks e' := by
  rw [subTicks_eq, subTicks_eq]
  exact Nat.div_le_div_right (Nat.mul_le_mul_right _ (by omega))

/-- A step list short enough to be well formed never restarts within a second: the modulus of its count does nothing. -/
theorem subTicksOf_steps {starts : List Nat} (h : starts.length < 32768) (e : Nat) :
    subTicksOf (.steps starts) e = starts.countP fun t => decide (t ≤ e % 1000000000) :=
  Nat.mod_eq_of_lt (lt_of_le_of_lt List.countP_le_length h)

/-- Within one second the count of a short step list does not decrease. -/
theorem subTicksOf_steps_le_of_same_second {starts : List Nat} (hlen : starts.length < 32768) {e e' : Nat} (h : e ≤ e')
    (hs : e / 1000000000 = e' / 1000000000) : subTicksOf (.steps starts) e ≤ subTicksOf (.steps starts) e' := by
  rw [subTicksOf_steps hlen, subTicksOf_steps hlen]
  refine List.countP_mono_left fun t _ ht => ?_
  rw [decide_eq_true_iff] at ht ⊢
  omega

/-! ## The tick -/

/-- R153 (b) for every sub-second function that stays below 32768 and does not decrease within a second. -/
theorem tickWith_le {sub : Nat → Nat} (hlt : ∀ x, sub x < 32768)
    (hsame : ∀ x y, x ≤ y → x / 1000000000 = y / 1000000000 → sub x ≤ sub y) {e e' : Nat} (h : e ≤ e')
    (h' : e' < 2 ^ 49 * 1000000000) : (tickWith sub e).toNat ≤ (tickWith sub e').toNat := by
  have hx := hlt e
  have hy := hlt e'
  have hle : e / 1000000000 * 32768 + sub e ≤ e' / 1000000000 * 32768 + sub e' := by
    by_cases hs : e / 1000000000 = e' / 1000000000
    · rw [hs]
      exact Nat.add_le_add_left (hsame e e' h hs) _
    · omega
  rw [tickWith_toNat hx, tickWith_toNat hy, Nat.mod_eq_of_lt (by omega), Nat.mod_eq_of_lt (by omega)]
  exact hle

/-- Settles O25: both named forms of `sub_ticks` do not decrease within a second, and `tickWith_le` is the rest. -/
theorem tickNeverDecreases : Obligations.TickNeverDecreases := by
  refine ⟨fun e e' h h' => ?own, fun c hc hp => ⟨subTicksOf_lt _, fun e e' h h' => ?lawful⟩⟩
  case own => exact tickWith_le subTicks_lt (fun _ _ => subTicks_le_of_same_second) h h'
  case lawful =>
    refine tickWith_le (subTicksOf_lt _) (fun x y hxy hs => ?_) h h'
    cases hsrc : c.subTicks with
    | exact => exact subTicks_le_of_same_second hxy hs
    | steps starts => exact subTicksOf_steps_le_of_same_second (Config.steps_of_wellFormed hc hsrc) hxy hs
    | platform k => exact absurd hsrc (hp k)

/-- R153 (c): one second more is `TICK_HZ` more. -/
theorem tickWith_add_second {src : SubTicks} (h : ∀ k, src ≠ .platform k) (e : Nat) :
    tickWith (subTicksOf src) (e + 1000000000) = tickWith (subTicksOf src) e + 32768#64 := by
  have hsecs : (e + 1000000000) / 1000000000 = e / 1000000000 + 1 := Nat.add_div_right _ (by decide)
  apply BitVec.eq_of_toNat_eq
  rw [BitVec.toNat_add, BitVec.toNat_ofNat, tickWith_toNat (subTicksOf_lt _ _), tickWith_toNat (subTicksOf_lt _ _),
    subTicksOf_add_second h, hsecs]
  omega

/-- Settles O26: the start by evaluation, the rate from `tickWith_add_second`. -/
theorem tickGainsHzPerSecond : Obligations.TickGainsHzPerSecond := by
  refine ⟨rfl, fun e => ?own, fun src e h => tickWith_add_second h e⟩
  case own => exact tickWith_add_second (src := .exact) (fun k h => by cases h) e

/-- Settles O27: the tick is 32768 times the seconds plus the sub-second count, which is below 32768. -/
theorem tickFieldsForAnySubSecond : Obligations.TickFieldsForAnySubSecond := by
  intro sub e h
  have hx := h e
  rw [tickWith_toNat hx]
  exact ⟨by omega, by omega⟩

/-! ## The window -/

/-- A little-endian field whose bytes are those of the number `x` holds `x`, as far as it has bytes. -/
theorem Memory.le_of_bytes {m : Memory} {a n x : Nat}
    (h : ∀ k, k < n → (m.read (a + k)).toNat = x / 2 ^ (8 * k) % 256) :
    m.le a n = x % 256 ^ n := by
  induction n generalizing a x with
  | zero => rw [pow_zero, Nat.mod_one, Memory.le]
  | succ n ih =>
    have hfirst : (m.read a).toNat = x % 256 := by simpa using h 0 (Nat.succ_pos n)
    have hrest : m.le (a + 1) n = x / 256 % 256 ^ n := by
      refine ih fun k hk => ?_
      have hshift : 256 * 2 ^ (8 * k) = 2 ^ (8 * (k + 1)) := by
        rw [Nat.mul_succ, pow_add]
        exact mul_comm 256 _
      rw [Nat.div_div_eq_div_mul, hshift, ← h (k + 1) (by omega), Nat.add_assoc, Nat.add_comm 1 k]
    rw [Memory.le, hfirst, hrest, pow_succ', Nat.mod_mul]

/-- The tick that RX packs (R150, R155) as a number. -/
theorem State.currentTick_toNat (s : State) :
    s.currentTick.toNat =
      ((s.now - s.rtcOffset) / 1000000000 * 32768 + subTicksOf s.cfg.subTicks (s.now - s.rtcOffset)) % 2 ^ 64 :=
  tickWith_toNat (subTicksOf_lt _ _)

theorem low_two_bytes (w : Nat) : w / 2 ^ (8 * 0) % 256 + 256 * (w / 2 ^ (8 * 1) % 256) = w % 65536 := by
  simp only [Nat.reduceMul, Nat.reducePow]
  omega

theorem high_five_bytes {w : Nat} (h : w < 2 ^ 56) :
    w / 2 ^ (8 * 2) % 256 + 256 * (w / 2 ^ (8 * 3) % 256) + 256 ^ 2 * (w / 2 ^ (8 * 4) % 256) +
      256 ^ 3 * (w / 2 ^ (8 * 5) % 256) + 256 ^ 4 * (w / 2 ^ (8 * 6) % 256) = w / 65536 := by
  simp only [Nat.reduceMul, Nat.reducePow] at h ⊢
  omega

/-- Settles O28: the seven bytes are those of `W` (R154), whose low two hold twice the sub-second count and whose high
five hold the seconds. -/
theorem windowBytesGiveBackTheClock : Obligations.WindowBytesGiveBackTheClock := by
  intro src e
  have hx : subTicksOf src e < 32768 := subTicksOf_lt src e
  have hword := clockWord_toNat (tickWith (subTicksOf src) e)
  rw [tickWith_toNat hx] at hword
  have hbyte (k : Nat) : ((clockWord (tickWith (subTicksOf src) e)).extractLsb' (8 * k) 8).toNat =
      (clockWord (tickWith (subTicksOf src) e)).toNat / 2 ^ (8 * k) % 256 := by
    rw [BitVec.extractLsb'_toNat, Nat.shiftRight_eq_div_pow]
  have hcount : (clockWord (tickWith (subTicksOf src) e)).toNat % 65536 / 2 = subTicksOf src e := by omega
  refine ⟨_, _, _, _, _, _, _, rfl, ?even, ?count, fun hsrc => ?own, ?secs⟩
  case even =>
    rw [hbyte, pow_zero, Nat.div_one]
    omega
  case count => rw [hbyte, hbyte, low_two_bytes, hcount]
  case own =>
    subst hsrc
    rw [hbyte, hbyte, low_two_bytes, hcount]
    exact subTicks_eq e
  case secs =>
    rw [hbyte, hbyte, hbyte, hbyte, hbyte, high_five_bytes (BitVec.isLt _)]
    omega

/-! ## The seconds to the alarm target -/

/-- Settles O30: `target_seconds` is a remainder by 2^ALARM_ARITH_BITS, and the quotient is the multiple. -/
theorem targetSecondsWrapsTheDifference : Obligations.TargetSecondsWrapsTheDifference := by
  intro s
  have hpos : (0 : Int) < ((2 ^ s.cfg.alarmArithBits : Nat) : Int) := by exact_mod_cast Nat.two_pow_pos _
  refine ⟨s.targetSeconds_lt, -(((s.alarmTarget : Int) - s.coarseSecs) / ((2 ^ s.cfg.alarmArithBits : Nat) : Int)), ?_⟩
  rw [← State.coarseSecs_eq, State.targetSeconds, Int.toNat_of_nonneg (Int.emod_nonneg _ (ne_of_gt hpos)), Int.emod_def]
  show (s.alarmTarget : Int) - _ - _ = (s.alarmTarget : Int) - _ + _
  ring

end Sys2Proof.Machine
end

section
/-! What the byte transfer events do on a live device (41_byte_transfer.md R130 to R136), as one equation per branch:
the converse of the inversion lemmas `execRx_next` and `execTx_next`. -/

namespace Sys2Proof.Machine

/-! ## The address pointer as a number -/

theorem nextAddr_eq_ofNat (ap : Addr) : nextAddr ap = BitVec.ofNat 16 (ap.toNat + 1) := by
  apply BitVec.eq_of_toNat_eq
  rw [nextAddr_toNat, BitVec.toNat_ofNat]

theorem withHighByte_eq_ofNat (ap : Addr) {d : Nat} (hd : d < 256) :
    withHighByte ap (BitVec.ofNat 8 d) = BitVec.ofNat 16 (256 * d + ap.toNat % 256) := by
  apply BitVec.eq_of_toNat_eq
  rw [withHighByte_toNat, BitVec.toNat_ofNat, BitVec.toNat_ofNat, Nat.mod_eq_of_lt hd]
  omega

theorem withLowByte_eq_ofNat (ap : Addr) {d : Nat} (hd : d < 256) :
    withLowByte ap (BitVec.ofNat 8 d) = BitVec.ofNat 16 (256 * (ap.toNat / 256) + d) := by
  apply BitVec.eq_of_toNat_eq
  rw [withLowByte_toNat, BitVec.toNat_ofNat, BitVec.toNat_ofNat, Nat.mod_eq_of_lt hd]
  omega

/-! ## The bounds check of the two byte events -/

theorem State.out_of_bounds {s : State} (h : s.cfg.regSize ≤ s.ap.toNat) : s.clearOutputs.apInBounds = false :=
  decide_eq_false (Nat.not_lt.mpr h)

theorem State.not_out_of_bounds {s : State} (h : s.ap.toNat < s.cfg.regSize) : ¬ s.clearOutputs.apInBounds = false := by
  rw [Bool.not_eq_false, State.apInBounds_iff]
  exact h

/-! ## RX -/

theorem execRx_of_not_reading {s : State} (hl : s.Live) (hop : s.op ≠ .reading) :
    execRx s = .next (s.rejected .rxNotReading) := by
  rw [execRx, State.admitted_of_live hl]
  exact if_pos hop

theorem execRx_of_no_address {s : State} (hl : s.Live) (hop : s.op = .reading) (hp : s.phase ≠ .addressComplete) :
    execRx s = .next (s.rejected .rxNoAddress) := by
  rw [execRx, State.admitted_of_live hl]
  exact (if_neg (not_not_intro hop)).trans (if_pos hp)

theorem execRx_of_out_of_range {s : State} (hl : s.Live) (hop : s.op = .reading) (hp : s.phase = .addressComplete)
    (ha : s.cfg.regSize ≤ s.ap.toNat) : execRx s = .next (s.rejected .rxOutOfRange) := by
  rw [execRx, State.admitted_of_live hl]
  exact (if_neg (not_not_intro hop)).trans ((if_neg (not_not_intro hp)).trans (if_pos (State.out_of_bounds ha)))

theorem execRx_of_in_range {s : State} (hl : s.Live) (hop : s.op = .reading) (hp : s.phase = .addressComplete)
    (ha : s.ap.toNat < s.cfg.regSize) : execRx s = .next s.afterRead := by
  rw [execRx, State.admitted_of_live hl]
  exact (if_neg (not_not_intro hop)).trans ((if_neg (not_not_intro hp)).trans
    ((if_neg (State.not_out_of_bounds ha)).trans (State.readByte_eq ha)))

/-! ## TX -/

/-- The two address phases take a byte whatever `op` is (R133). -/
theorem execTx_of_high {s : State} (hl : s.Live) {d : Nat} (hd : d < 256) (hp : s.phase = .awaitingHighByte) :
    execTx d s =
      .next { s with
        ap := withHighByte s.ap (BitVec.ofNat 8 d), phase := .awaitingLowByte
        resp := some (.ok 0x00#8), timer := none } := by
  rw [execTx, State.admitted_of_live hl]
  simp only [deliveredByte_of_lt hd, State.clearOutputs_phase, hp]
  rfl

theorem execTx_of_low {s : State} (hl : s.Live) {d : Nat} (hd : d < 256) (hp : s.phase = .awaitingLowByte) :
    execTx d s =
      .next { s with
        ap := withLowByte s.ap (BitVec.ofNat 8 d), phase := .addressComplete
        resp := some (.ok 0x00#8), timer := none } := by
  rw [execTx, State.admitted_of_live hl]
  simp only [deliveredByte_of_lt hd, State.clearOutputs_phase, hp]
  rfl

/-- With the address complete a byte is data (R132, R135). -/
theorem execTx_of_complete {s : State} (hl : s.Live) {d : Nat} (hd : d < 256) (hp : s.phase = .addressComplete) :
    execTx d s = s.clearOutputs.takeData (BitVec.ofNat 8 d) := by
  rw [execTx, State.admitted_of_live hl]
  simp only [deliveredByte_of_lt hd, State.clearOutputs_phase, hp]

theorem execTx_of_not_writing {s : State} (hl : s.Live) {d : Nat} (hd : d < 256) (hp : s.phase = .addressComplete)
    (hop : s.op ≠ .writing) : execTx d s = .next (s.rejected .txNotWriting) :=
  (execTx_of_complete hl hd hp).trans (if_pos hop)

theorem execTx_of_out_of_range {s : State} (hl : s.Live) {d : Nat} (hd : d < 256) (hp : s.phase = .addressComplete)
    (hop : s.op = .writing) (ha : s.cfg.regSize ≤ s.ap.toNat) : execTx d s = .next (s.rejected .txOutOfRange) :=
  (execTx_of_complete hl hd hp).trans
    ((if_neg (not_not_intro hop)).trans (if_pos (State.out_of_bounds ha)))

theorem execTx_of_in_range {s : State} (hl : s.Live) {d : Nat} (hd : d < 256) (hp : s.phase = .addressComplete)
    (hop : s.op = .writing) (ha : s.ap.toNat < s.cfg.regSize) : execTx d s = .next (s.afterData (BitVec.ofNat 8 d)) :=
  (execTx_of_complete hl hd hp).trans ((if_neg (not_not_intro hop)).trans
    ((if_neg (State.not_out_of_bounds ha)).trans (State.storeByte_eq ha _)))

/-! ## The statements about RX -/

/-- Settles O16: one equation per check, in the order of R206. -/
theorem byteOutRejections : Obligations.ByteOutRejections :=
  fun _ hl => ⟨execRx_of_not_reading hl, execRx_of_no_address hl, execRx_of_out_of_range hl⟩

/-- Settles O14: outside the window the read finds the file as it stands. -/
theorem byteOutReturnsStoredByte : Obligations.ByteOutReturnsStoredByte := by
  intro s hl hop hp ha hwin
  refine (execRx_of_in_range hl hop hp ha).trans ?_
  rw [State.afterRead, State.readFile_of_not_window hwin, nextAddr_eq_ofNat]

/-- Inside the window each of its bytes is read as the byte of the packed current tick (R154, R155). -/
theorem State.readFile_read_of_window {s : State} (hw : s.file.wf)
    (hwin : s.cfg.clkAddr ≤ s.ap.toNat ∧ s.ap.toNat < s.cfg.clkAddr + 7) {a : Nat} (h1 : s.cfg.clkAddr ≤ a)
    (h2 : a < s.cfg.clkAddr + 7) :
    (s.readFile.read a).toNat = windowByte s.currentTick.toNat (a - s.cfg.clkAddr) := by
  rw [State.readFile_of_window hwin, Memory.read_writeBytes hw, pack7_length, if_pos ⟨h1, h2⟩,
    pack7_getD_toNat _ (by omega), windowByte]

/-- Settles O15: the file is the one MATERIALIZE_CLOCK leaves, and the tick is `State.currentTick`. -/
theorem byteOutInWindowReturnsClock : Obligations.ByteOutInWindowReturnsClock := by
  intro s hl hw hop hp ha h1 h2
  have hbyte := fun {a : Nat} => State.readFile_read_of_window (a := a) hw ⟨h1, h2⟩
  refine ⟨s.readFile, s.readFile.read s.ap.toNat, s.currentTick.toNat, ?_, s.currentTick_toNat, fun hsrc => ?own,
    hbyte h1 h2, fun a => hbyte, fun a hout => State.readFile_read_of_not_window hw hout⟩
  · refine (execRx_of_in_range hl hop hp ha).trans ?_
    rw [State.afterRead, nextAddr_eq_ofNat]
  case own =>
    rw [State.currentTick, hsrc, subTicksOf_exact]
    exact tickOf_toNat _

/-- The seven window bytes an RX inside the window leaves, as one number (R154). -/
theorem State.readFile_le_window {s : State} (hw : s.file.wf)
    (hwin : s.cfg.clkAddr ≤ s.ap.toNat ∧ s.ap.toNat < s.cfg.clkAddr + 7) :
    s.readFile.le s.cfg.clkAddr 7 = 2 * s.currentTick.toNat % 2 ^ 56 := by
  rw [Memory.le_of_bytes (x := 2 * s.currentTick.toNat % 2 ^ 56) fun k hk => ?_]
  · exact Nat.mod_eq_of_lt (Nat.mod_lt _ (by decide))
  · rw [State.readFile_read_of_window hw hwin (by omega) (by omega), windowByte, Nat.add_sub_cancel_left]

/-- Before 2^40 seconds have passed, twice the tick fits in the window (R154). -/
theorem State.currentTick_lt {s : State} (h : s.now - s.rtcOffset < 2 ^ 40 * 1000000000) :
    2 * s.currentTick.toNat < 2 ^ 56 := by
  have := subTicksOf_lt s.cfg.subTicks (s.now - s.rtcOffset)
  rw [State.currentTick_toNat]
  omega

/-- Settles O60: the window holds twice the tick, which has not wrapped and, by the named property, does not decrease.
-/
theorem laterWindowReadIsNotEarlier : Obligations.LaterWindowReadIsNotEarlier := by
  intro s t hls hlt hcfg hoff hnow hlawful hbound hread
  obtain ⟨-, hmono⟩ := hlawful
  obtain ⟨hws, hops, hps, has, hwins⟩ := hread s (by simp)
  obtain ⟨hwt, hopt, hpt, hat, hwint⟩ := hread t (by simp)
  refine ⟨_, _, execRx_of_in_range hls hops hps has, execRx_of_in_range hlt hopt hpt hat, ?_⟩
  have hle : s.currentTick.toNat ≤ t.currentTick.toNat := by
    rw [State.currentTick, State.currentTick, ← hcfg]
    exact hmono _ _ (by omega) (by omega)
  have htop := State.currentTick_lt hbound
  show s.readFile.le _ _ ≤ t.readFile.le _ _
  rw [State.readFile_le_window hws hwins, hcfg, State.readFile_le_window hwt hwint, Nat.mod_eq_of_lt htop,
    Nat.mod_eq_of_lt (by omega)]
  omega

/-! ## The statements about TX -/

/-- Settles O17: the byte takes its place in `ap`. -/
theorem addressBytesFillThePointer : Obligations.AddressBytesFillThePointer := by
  refine fun s d hl hd => ⟨fun hp => ?high, fun hp => ?low⟩
  case high => exact (execTx_of_high hl hd hp).trans (by rw [withHighByte_eq_ofNat _ hd])
  case low => exact (execTx_of_low hl hd hp).trans (by rw [withLowByte_eq_ofNat _ hd])

/-- Settles O21: one equation per check, in the order of R206. -/
theorem dataByteRejections : Obligations.DataByteRejections :=
  fun _ _ hl hd hp => ⟨execTx_of_not_writing hl hd hp, execTx_of_out_of_range hl hd hp⟩

/-- The file with the byte stored: that byte there, every other byte as before. -/
theorem State.stored_read {s : State} (hw : s.file.wf) (d : Byte) (a : Nat) :
    (s.stored d).file.read a = if a = s.ap.toNat then d else s.file.read a :=
  Memory.read_write hw _ _ _

/-- R70: a byte stored at an address of neither kind has no side effect. -/
theorem State.afterStore_of_plain {s : State} {a : Nat} (ha : touchesAlarm s.cfg a = false)
    (hi : touchesIrq s.cfg a = false) : s.afterStore a = s := by
  rw [State.afterStore, ha, if_neg Bool.false_ne_true, hi, if_neg Bool.false_ne_true]

theorem touchesAlarm_eq_false {c : Config} {a : Nat} (hc : a ≠ c.ctrlAddr)
    (ha : ¬ (c.alarmAddr ≤ a ∧ a < c.alarmAddr + c.alarmLen)) : touchesAlarm c a = false := by
  rw [Bool.eq_false_iff, ne_eq, touchesAlarm_iff]
  exact not_or.mpr ⟨hc, ha⟩

theorem touchesIrq_eq_false {c : Config} {a : Nat}
    (h : c.irqReevalOnWrite = true → ¬ (c.maskAddr ≤ a ∧ a < c.maskAddr + c.irqLen) ∧
      ¬ (c.eventAddr ≤ a ∧ a < c.eventAddr + c.irqLen)) : touchesIrq c a = false := by
  rw [Bool.eq_false_iff, ne_eq, touchesIrq_iff]
  rintro ⟨hw, hr⟩
  exact hr.elim (h hw).1 (h hw).2

/-- A data byte at a plain address is stored, and nothing else happens (R135). -/
theorem State.afterData_of_plain {s : State} (ha : touchesAlarm s.cfg s.ap.toNat = false)
    (hi : touchesIrq s.cfg s.ap.toNat = false) (d : Byte) :
    s.afterData d =
      { s with
        file := s.file.write s.ap.toNat d, ap := BitVec.ofNat 16 (s.ap.toNat + 1)
        resp := some (.ok 0x00#8), timer := none } := by
  rw [State.afterData, State.afterStore_of_plain (s := s.stored d) ha hi, State.stored, nextAddr_eq_ofNat]

/-- Settles O19: the address has no side effect, so the store is all. -/
theorem dataByteIsStored : Obligations.DataByteIsStored := by
  intro s d hl hd hw hp hop ha hctrl halarm hirq
  refine ⟨s.file.write s.ap.toNat (BitVec.ofNat 8 d), ?_, fun a => Memory.read_write hw _ _ _⟩
  refine (execTx_of_in_range hl hd hp hop ha).trans ?_
  rw [State.afterData_of_plain (touchesAlarm_eq_false hctrl halarm) (touchesIrq_eq_false hirq)]

/-- A data byte in an interrupt register is stored, and the line is recomputed (R135, R191). -/
theorem State.afterData_of_irq {s : State} (hc : s.cfg.wellFormed = true) (hi : touchesIrq s.cfg s.ap.toNat = true)
    (d : Byte) :
    s.afterData d =
      { s with
        file := s.file.write s.ap.toNat d, ap := BitVec.ofNat 16 (s.ap.toNat + 1)
        irq := irqLevel s.cfg (s.file.write s.ap.toNat d), resp := some (.ok 0x00#8), timer := none } := by
  have hirq : (s.stored d).afterStore s.ap.toNat = (s.stored d).irqReeval := by
    obtain ⟨ha, -⟩ | ⟨-, -, h⟩ | ⟨-, hn, -⟩ := State.afterStore_cases (s := s.stored d) hc s.ap.toNat
    · cases hi.symm.trans (touchesIrq_of_touchesAlarm hc ha)
    · exact h
    · cases hi.symm.trans hn
  rw [State.afterData, hirq, ← nextAddr_eq_ofNat]
  rfl

/-- Settles O20: the store and IRQ_REEVAL on the stored registers. -/
theorem irqRegisterWriteReevaluatesLine : Obligations.IrqRegisterWriteReevaluatesLine := by
  intro s d hl hd hw hc hon hp hop hreg
  have hin : s.ap.toNat < s.cfg.regSize := by
    obtain ⟨-, hmask, hevent, -⟩ := Config.inFile_of_wellFormed hc
    omega
  refine ⟨s.file.write s.ap.toNat (BitVec.ofNat 8 d), irqLevel s.cfg (s.file.write s.ap.toNat (BitVec.ofNat 8 d)), ?_,
    fun a => Memory.read_write hw _ _ _, irqLevel_iff _ _⟩
  refine (execTx_of_in_range hl hd hp hop hin).trans ?_
  rw [State.afterData_of_irq hc ((touchesIrq_iff _ _).mpr ⟨hon, hreg⟩)]

end Sys2Proof.Machine
end

section
/-! A data byte to the control register or the alarm field (43_alarm_scheduler.md R174): the store, and one equation per
branch of ALARM_REEVAL on the stored state. -/

namespace Sys2Proof.Machine

/-! ## What the statements about an alarm write share -/

/-- A performed write of the byte `d` to the control register or the alarm field. -/
structure State.WritesAlarm (s : State) (d : Nat) : Prop where
  live : s.Live
  byte : d < 256
  config : s.cfg.wellFormed = true
  phase : s.phase = .addressComplete
  op : s.op = .writing
  touches : touchesAlarm s.cfg s.ap.toNat = true

theorem lt_regSize_of_touchesAlarm {c : Config} (hc : c.wellFormed = true) {a : Nat} (ha : touchesAlarm c a = true) :
    a < c.regSize := by
  obtain ⟨-, -, -, hctrl, halarm, -⟩ := Config.inFile_of_wellFormed hc
  rw [touchesAlarm_iff] at ha
  omega

/-- R135, R174: the byte is stored, and ALARM_REEVAL runs on the stored state inside the event. -/
theorem execTx_of_writesAlarm {s : State} {d : Nat} (h : s.WritesAlarm d) :
    execTx d s = .next { (s.stored (BitVec.ofNat 8 d)).alarmReeval with resp := some (.ok 0x00#8) } := by
  have hal : (s.stored (BitVec.ofNat 8 d)).afterStore s.ap.toNat = (s.stored (BitVec.ofNat 8 d)).alarmReeval := by
    obtain ⟨-, hr⟩ | ⟨hn, -⟩ | ⟨hn, -⟩ := State.afterStore_cases (s := s.stored (BitVec.ofNat 8 d)) h.config s.ap.toNat
    · exact hr
    · cases h.touches.symm.trans hn
    · cases h.touches.symm.trans hn
  refine (execTx_of_in_range h.live h.byte h.phase h.op (lt_regSize_of_touchesAlarm h.config h.touches)).trans ?_
  rw [State.afterData, hal]

/-- Settles O32: the stored state is the one the statement writes out. -/
theorem alarmWriteRunsReevaluation : Obligations.AlarmWriteRunsReevaluation := by
  intro s d hl hd hc hp hop ha
  rw [← nextAddr_eq_ofNat]
  exact execTx_of_writesAlarm ⟨hl, hd, hc, hp, hop, (touchesAlarm_iff _ _).mpr ha⟩

/-! ## The branches of ALARM_REEVAL after the store -/

/-- Dropping the deadline of a stored state notifies exactly when one was pending (log 9). -/
theorem State.stored_disarm_timer (s : State) (d : Byte) :
    (s.stored d).disarm.timer = if s.alarmDeadline = none then none else some .cancel := by
  rw [State.disarm_timer]
  show (if s.alarmDeadline.isSome = true then _ else none) = _
  cases s.alarmDeadline <;> rfl

/-- Settles O33: with the enable bit clear ALARM_REEVAL only drops the deadline. -/
theorem disabledAlarmIsCancelled : Obligations.DisabledAlarmIsCancelled := by
  intro s d hl hd hw hc hp hop ha hoff
  have hdisabled : (s.stored (BitVec.ofNat 8 d)).alarmEnabled = false := (State.alarmEnabled_eq_false_iff _).mpr hoff
  refine ⟨(s.stored (BitVec.ofNat 8 d)).file, (s.stored (BitVec.ofNat 8 d)).disarm.timer, ?_,
    State.stored_disarm_timer _ _, State.stored_read hw _⟩
  refine (execTx_of_writesAlarm ⟨hl, hd, hc, hp, hop, (touchesAlarm_iff _ _).mpr ha⟩).trans ?_
  rw [State.alarmReeval_of_disabled hdisabled, ← nextAddr_eq_ofNat]
  rfl

/-- No address that triggers ALARM_REEVAL is the alarm-event byte. -/
theorem alarmEventAddr_ne_of_touchesAlarm {c : Config} (hc : c.wellFormed = true) {a : Nat}
    (ha : touchesAlarm c a = true) : alarmEventAddr c ≠ a := by
  rintro rfl
  obtain ⟨hctrl, halarm, -⟩ := alarmEventAddr_apart hc
  rw [touchesAlarm_iff] at ha
  exact ha.elim hctrl halarm

/-- The file after the store and ALARM_FIRE: both bytes changed, each at its own address. -/
theorem State.stored_alarmFire_read {s : State} (hw : s.file.wf) (hne : alarmEventAddr s.cfg ≠ s.ap.toNat) (d : Byte)
    (a : Nat) :
    (s.stored d).disarm.alarmFire.file.read a =
      if a = s.ap.toNat then d
      else if a = alarmEventAddr s.cfg then s.file.read a ||| s.cfg.alarmEvtMask
      else s.file.read a := by
  rw [State.alarmFire_read (s := (s.stored d).disarm) (Memory.wf_write hw _ _), State.disarm_file, State.stored_read hw]
  show (if a = alarmEventAddr s.cfg then _ ||| s.cfg.alarmEvtMask else _) = _
  by_cases h1 : a = s.ap.toNat
  · rw [if_pos h1, if_pos h1, if_neg (h1 ▸ hne.symm)]
  · rw [if_neg h1, if_neg h1]

/-- Settles O34: a target at the coarse seconds is zero seconds away, and ALARM_REEVAL fires. -/
theorem targetNowFiresWithinTheWrite : Obligations.TargetNowFiresWithinTheWrite := by
  intro s d hl hd hw hc hp hop ha hon htarget
  have htouch := (touchesAlarm_iff _ _).mpr ha
  have henabled : (s.stored (BitVec.ofNat 8 d)).alarmEnabled = true := (State.alarmEnabled_iff _).mpr hon
  have hcoarse : (s.stored (BitVec.ofNat 8 d)).alarmTarget = (s.stored (BitVec.ofNat 8 d)).coarseSecs :=
    htarget.trans (State.coarseSecs_eq _).symm
  have hdue : (s.stored (BitVec.ofNat 8 d)).targetSeconds = 0 := by
    rw [State.targetSeconds_of_le hcoarse.ge (by rw [hcoarse, Nat.sub_self]; exact Nat.two_pow_pos _), hcoarse,
      Nat.sub_self]
  refine ⟨(s.stored (BitVec.ofNat 8 d)).disarm.alarmFire.file, (s.stored (BitVec.ofNat 8 d)).disarm.alarmFire.irq,
    (s.stored (BitVec.ofNat 8 d)).disarm.timer, ?_, State.stored_disarm_timer _ _,
    State.stored_alarmFire_read hw (alarmEventAddr_ne_of_touchesAlarm hc htouch) _, irqLevel_iff _ _⟩
  refine (execTx_of_writesAlarm ⟨hl, hd, hc, hp, hop, htouch⟩).trans ?_
  rw [State.alarmReeval_of_due henabled hdue, ← nextAddr_eq_ofNat]
  rfl

/-- With the enable bit set and a target some seconds away, ALARM_REEVAL arms. -/
theorem execTx_of_ahead {s : State} {d : Nat} (h : s.WritesAlarm d)
    (he : (s.stored (BitVec.ofNat 8 d)).alarmEnabled = true) {k : Nat}
    (hk : (s.stored (BitVec.ofNat 8 d)).targetSeconds = k) (h0 : k ≠ 0) :
    execTx d s =
      .next { s with
        file := (s.stored (BitVec.ofNat 8 d)).file, ap := BitVec.ofNat 16 (s.ap.toNat + 1)
        alarmDeadline := some (s.now + k * nsPerSec), resp := some (.ok 0x00#8)
        timer := some (.arm (s.now + k * nsPerSec)) } := by
  rw [execTx_of_writesAlarm h, State.alarmReeval_of_ahead he (hk ▸ h0), hk, ← nextAddr_eq_ofNat]
  rfl

/-- Settles O35: the distance to a later target is the plain difference, and `now` is the offset, the elapsed whole
seconds and the phase within the second. -/
theorem futureTargetArmsAtItsSecond : Obligations.FutureTargetArmsAtItsSecond := by
  intro s d hl hd hw hc hp hop ha hon target htarget hlater hsecs hfits
  have hcoarse : (s.stored (BitVec.ofNat 8 d)).coarseSecs = (s.now - s.rtcOffset) / 1000000000 :=
    (State.coarseSecs_eq _).trans (Nat.mod_eq_of_lt hsecs)
  have htgt : (s.stored (BitVec.ofNat 8 d)).alarmTarget = target := htarget
  have hk : (s.stored (BitVec.ofNat 8 d)).targetSeconds = target - (s.now - s.rtcOffset) / 1000000000 := by
    rw [State.targetSeconds_of_le (by omega) (by rw [htgt, hcoarse]; exact hfits), htgt, hcoarse]
  have hnow : s.rtcOffset ≤ s.now := hl.2
  have hwrites : s.WritesAlarm d := ⟨hl, hd, hc, hp, hop, (touchesAlarm_iff _ _).mpr ha⟩
  exact ⟨_, _, execTx_of_ahead hwrites ((State.alarmEnabled_iff _).mpr hon) hk (by omega),
    by simp only [nsPerSec]; omega, State.stored_read hw _⟩

/-- Settles O36: the distance to an earlier target wraps at 2^ALARM_ARITH_BITS (D10). -/
theorem pastTargetArmsTheWrappedDistance : Obligations.PastTargetArmsTheWrappedDistance := by
  intro s d hl hd hw hc hp hop ha hon late htarget hlate hfits
  have hcoarse : (s.stored (BitVec.ofNat 8 d)).alarmTarget + late = (s.stored (BitVec.ofNat 8 d)).coarseSecs :=
    htarget.trans (State.coarseSecs_eq _).symm
  have hdist : (s.stored (BitVec.ofNat 8 d)).coarseSecs - (s.stored (BitVec.ofNat 8 d)).alarmTarget = late := by omega
  have hk : (s.stored (BitVec.ofNat 8 d)).targetSeconds = 2 ^ s.cfg.alarmArithBits - late := by
    rw [State.targetSeconds_of_gt (by omega) (by rw [hdist]; exact hfits.le), hdist]
    rfl
  have hwrites : s.WritesAlarm d := ⟨hl, hd, hc, hp, hop, (touchesAlarm_iff _ _).mpr ha⟩
  exact ⟨_, _, execTx_of_ahead hwrites ((State.alarmEnabled_iff _).mpr hon) hk (by omega), rfl, State.stored_read hw _⟩

end Sys2Proof.Machine
end

section
/-! The three host events as equations (70_reset_and_hazards.md R230, R232; 43_alarm_scheduler.md R175), and what breaks
a host obligation (00_scope.md R15). -/

namespace Sys2Proof.Machine

/-! ## EXPIRE -/

theorem execExpire_of_due {s : State} (hl : s.Live) {due : Nat} (hd : s.alarmDeadline = some due) (hnow : due ≤ s.now) :
    execExpire s = .next s.clearOutputs.spend.alarmFire := by
  rw [execExpire, State.admitted_of_live hl]
  simp only [State.clearOutputs_alarmDeadline, hd]
  exact if_neg (Nat.not_lt.mpr hnow)

theorem execExpire_of_early {s : State} (hl : s.Live) {due : Nat} (hd : s.alarmDeadline = some due)
    (hnow : s.now < due) : execExpire s = .refused .beforeDeadline := by
  rw [execExpire, State.admitted_of_live hl]
  simp only [State.clearOutputs_alarmDeadline, hd]
  exact if_pos hnow

theorem execExpire_of_not_pending {s : State} (hl : s.Live) (hd : s.alarmDeadline = none) :
    execExpire s = .refused .noAlarmPending := by
  rw [execExpire, State.admitted_of_live hl]
  simp only [State.clearOutputs_alarmDeadline, hd]

/-- Settles O37: the word by evaluation, then one equation per clause; a due EXPIRE is ALARM_FIRE with the timer spent.
-/
theorem expireFiresADueAlarmOnly : Obligations.ExpireFiresADueAlarmOnly := by
  refine ⟨by decide, rfl, fun s hl => ⟨fun due hd hnow hw => ?due, fun due => execExpire_of_early hl,
    execExpire_of_not_pending hl⟩⟩
  case due =>
    exact ⟨_, _, execExpire_of_due hl hd hnow, State.alarmFire_read (s := s.clearOutputs.spend) hw, irqLevel_iff _ _⟩

/-! ## CREATE -/

theorem execCreate_of_creatable {s : State} (h : s.Creatable) : execCreate s = .next s.createdFrom := by
  obtain ⟨hnew, hc, hn⟩ := h
  rw [execCreate, hnew, hc, if_neg Bool.false_ne_true, if_neg Bool.false_ne_true.symm,
    if_neg (not_not_intro hn)]
  rfl

/-- Settles O41: the constructor's fields as written, and the bytes of `State.createdFrom_read`. -/
theorem createBuildsTheInstance : Obligations.CreateBuildsTheInstance := by
  intro s h
  refine ⟨s.createdFrom.file, execCreate_of_creatable h, fun a => ?_⟩
  obtain ⟨-, -, hn⟩ := h
  rw [State.createdFrom_read, hn]

/-- Settles O42: the checks and the constructor read nothing but the five fields the states agree on. -/
theorem createReadsNoEarlierState : Obligations.CreateReadsNoEarlierState := by
  intro s t hcreated hnow hsnap hcfg hevents
  have hfrom : s.createdFrom = t.createdFrom := by
    rw [State.createdFrom, State.createdFrom, hnow, hsnap, hcfg, hevents]
  show execCreate s = execCreate t
  rw [execCreate, execCreate, hcreated, hcfg, hsnap, hfrom]

/-! ## RESET -/

/-- The register file RESET leaves, byte by byte (R232). -/
theorem State.resetFile_read {s : State} (hc : s.cfg.wellFormed = true) (hn : s.snapshot.length = s.cfg.snapLen)
    (hw : s.file.wf) {a : Nat} (ha : a < s.cfg.regSize) :
    s.resetFile.file.read a =
      if s.cfg.idBase ≤ a ∧ a < s.cfg.idBase + s.cfg.idLen then 0xFF#8
      else if s.cfg.resetScratch = .snapshot ∧ s.cfg.snapAddr ≤ a ∧ a < s.cfg.snapAddr + s.cfg.snapLen then
        s.snapshot.getD (a - s.cfg.snapAddr) 0x00#8
      else 0x00#8 := by
  have hclear := Memory.wf_clear hw 0 s.cfg.regSize
  have hid : ((s.file.clear 0 s.cfg.regSize).writeBytes s.cfg.idBase (List.replicate s.cfg.idLen idFill)).read a =
      if s.cfg.idBase ≤ a ∧ a < s.cfg.idBase + s.cfg.idLen then 0xFF#8 else 0x00#8 := by
    rw [Memory.read_writeBytes hclear, List.length_replicate, Memory.read_clear,
      if_pos (c := 0 ≤ a ∧ a < _) ⟨a.zero_le, ha⟩]
    split
    · next h => exact List.getD_replicate _ (by omega)
    · rfl
  rw [State.resetFile_of_wellFormed hc hn]
  dsimp only
  by_cases hpolicy : s.cfg.resetScratch = .snapshot
  · obtain ⟨hbase, hsnap⟩ := Config.scratch_of_wellFormed hc
    obtain ⟨-, -, hapart, -⟩ := Config.apart_of_wellFormed hc
    simp only [disjointRanges] at hapart
    rw [if_pos hpolicy, Memory.read_writeBytes (Memory.wf_writeBytes hclear _ _), hn, hid]
    by_cases h1 : s.cfg.idBase ≤ a ∧ a < s.cfg.idBase + s.cfg.idLen
    · rw [if_neg (by omega), if_pos h1, if_pos h1]
    · rw [if_neg h1, if_neg h1]
      simp only [hpolicy, true_and]
  · rw [if_neg hpolicy, hid]
    simp only [hpolicy, false_and, if_false]

/-- After RESET the mask register is zero, and so the level is low. -/
theorem State.resetFile_irqLevel {s : State} (hc : s.cfg.wellFormed = true) (hn : s.snapshot.length = s.cfg.snapLen)
    (hw : s.file.wf) : irqLevel s.cfg s.resetFile.file = false := by
  obtain ⟨-, hmask, -⟩ := Config.inFile_of_wellFormed hc
  obtain ⟨hbase, hsnap⟩ := Config.scratch_of_wellFormed hc
  obtain ⟨hid, -, -, -, -, -, -, hscratch, -⟩ := Config.apart_of_wellFormed hc
  simp only [disjointRanges] at hid hscratch
  refine irqLevel_of_mask_zero fun a h1 h2 => ?_
  rw [State.resetFile_read hc hn hw (by omega), if_neg (by omega), if_neg (by omega)]

/-- Settles O40: the fields of `State.resetBody_frame`, with the bytes and the line of the file RESET leaves. -/
theorem resetLeavesItsContract : Obligations.ResetLeavesItsContract := by
  intro s hl hc hn hw
  have hlevel := State.resetFile_irqLevel (s := s.clearOutputs.idleBus) hc hn hw
  have hdiag : s.clearOutputs.idleBus.resetFile.diag = s.diag := by
    rw [State.resetFile_of_wellFormed (s := s.clearOutputs.idleBus) hc hn, State.idleBus_diag, State.clearOutputs_diag]
  refine ⟨s.clearOutputs.idleBus.resetFile.file, _, ?_, rfl,
    fun a ha => State.resetFile_read (s := s.clearOutputs.idleBus) hc hn hw ha⟩
  refine (execReset_of_live hl).trans ?_
  rw [State.resetBody_frame, hlevel, hdiag]
  rfl

/-- Settles O43: REF, a zero snapshot and clock value 0 fix the state CREATE makes, and RESET of it evaluates to the
reset state. -/
theorem resetStateIsCreateThenReset : Obligations.ResetStateIsCreateThenReset := by
  intro s hnew hnow hcfg hsnap hevents
  have hcreatable : s.Creatable := ⟨hnew, by rw [hcfg]; decide, by rw [hcfg, hsnap]; decide⟩
  refine ⟨s.createdFrom, execCreate_of_creatable hcreatable, ?_⟩
  rw [State.createdFrom, hnow, hcfg, hsnap, hevents]
  rfl

/-! ## Inputs that break a host obligation -/

/-- Settles O44: the guard of R15 for every event but CREATE, CREATE's own first check, and the byte check of TX. -/
theorem brokenHostObligationIsRefused : Obligations.BrokenHostObligationIsRefused := by
  refine ⟨fun s i hnew hi => ?unborn, fun s i hcreated hclock hi => ?clock, fun s hcreated => ?second,
    fun s d hl hd => ?byte⟩
  case unborn =>
    obtain ⟨handler, hadm⟩ := exec_eq_admitted hi
    rw [hadm, State.admitted_of_not_created hnew]
  case clock =>
    obtain ⟨handler, hadm⟩ := exec_eq_admitted hi
    rw [hadm, State.admitted, if_neg (by simp [hcreated]), if_pos hclock]
  case second => exact if_pos hcreated
  case byte =>
    show execTx d s = _
    rw [execTx, State.admitted_of_live hl, deliveredByte_of_ge hd]

end Sys2Proof.Machine
end

section
/-! Rules about every event (10_state.md section 2; 20_memory.md section 4): what an event that answers has done to the
state, said once (`exec_effect`), and the rules read off it. -/

namespace Sys2Proof.Machine

/-! ## The effect of an event -/

/-- How an accepted event that moves no data may move `phase` (R24, R111, R133, R134). -/
inductive PhaseStep : Instr → Phase → Phase → Prop
  | kept (i : Instr) (p : Phase) : PhaseStep i p p
  | high (d : Nat) : PhaseStep (.tx d) .awaitingHighByte .awaitingLowByte
  | low (d : Nat) : PhaseStep (.tx d) .awaitingLowByte .addressComplete
  | back (p : Phase) : PhaseStep .sw p .awaitingHighByte

/-- What an event did to the state `s` when it answered: it was rejected, it moved the transaction state only, it read
or stored a byte, or it was one of the three host events. -/
inductive Effect (s : State) : Instr → State → Prop
  | rejected {i : Instr} (hb : i.format = .bus) (c : Cause) : Effect s i (s.rejected c)
  | moved {i : Instr} (hb : i.format = .bus) (op : Op) (ap : Addr) {phase : Phase} (hp : PhaseStep i s.phase phase) :
      Effect s i { s with op := op, ap := ap, phase := phase, resp := some (.ok 0x00#8), timer := none }
  | read : Effect s .rx s.afterRead
  | stored (d : Nat) (hp : s.phase = .addressComplete) (hop : s.op = .writing) :
      Effect s (.tx d) (s.afterData (BitVec.ofNat 8 d))
  | reset : Effect s .reset s.clearOutputs.idleBus.resetFile.resetAlarm.resetIrq
  | expired : Effect s .expire s.clearOutputs.spend.alarmFire
  | created : Effect s .create s.createdFrom

theorem execRx_effect {s t : State} (h : execRx s = .next t) : Effect s .rx t := by
  obtain ⟨-, ⟨-, rfl⟩ | ⟨-, -, rfl⟩ | ⟨-, -, -, rfl⟩ | ⟨-, -, -, rfl⟩⟩ := execRx_next h
  · exact .rejected rfl _
  · exact .rejected rfl _
  · exact .rejected rfl _
  · exact .read

theorem execTx_effect {d : Nat} {s t : State} (h : execTx d s = .next t) : Effect s (.tx d) t := by
  obtain ⟨-, -, ⟨hp, rfl⟩ | ⟨hp, rfl⟩ | ⟨-, -, rfl⟩ | ⟨-, -, -, rfl⟩ | ⟨hp, hop, -, rfl⟩⟩ := execTx_next h
  · exact .moved rfl _ _ (hp ▸ .high d)
  · exact .moved rfl _ _ (hp ▸ .low d)
  · exact .rejected rfl _
  · exact .rejected rfl _
  · exact .stored d hp hop

/-- Every event that answers has one of the effects. -/
theorem exec_effect {i : Instr} {s t : State} (h : exec i s = .next t) : Effect s i t := by
  cases i with
  | sr =>
    obtain ⟨-, ⟨-, rfl⟩ | ⟨-, rfl⟩⟩ := execSr_next h
    · exact .moved rfl _ _ (.kept _ _)
    · exact .rejected rfl _
  | sw =>
    obtain ⟨-, ⟨-, rfl⟩ | ⟨-, rfl⟩⟩ := execSw_next h
    · exact .moved rfl _ _ (.back _)
    · exact .rejected rfl _
  | swa => obtain ⟨-, rfl⟩ := execSwa_next h; exact .rejected rfl _
  | fin => obtain ⟨-, rfl⟩ := execFin_next h; exact .moved rfl _ _ (.kept _ _)
  | nak => obtain ⟨-, rfl⟩ := execNak_next h; exact .rejected rfl _
  | rx => exact execRx_effect h
  | tx d => exact execTx_effect h
  | reset => obtain ⟨-, rfl⟩ := execReset_next h; exact .reset
  | expire => obtain ⟨-, _, -, -, rfl⟩ := execExpire_next h; exact .expired
  | create => obtain ⟨-, rfl⟩ := execCreate_next h; exact .created

/-! ## What the two larger effects leave unchanged -/

/-- A stored byte and its side effects touch the file, `ap`, the deadline, the line and the outputs only (R135). -/
theorem State.afterData_frame (s : State) (d : Byte) :
    s.afterData d =
      { s with
        file := (s.afterData d).file, ap := nextAddr s.ap, alarmDeadline := (s.afterData d).alarmDeadline
        irq := (s.afterData d).irq, resp := some (.ok 0x00#8), timer := (s.afterData d).timer } :=
  congrArg (fun t : State => { t with resp := some (.ok 0x00#8) }) (State.afterStore_frame (s.stored d) s.ap.toNat)

/-- RESET touches the file, the transaction state, the deadline, the line, the diagnostic stream and the outputs only
(R232). -/
theorem State.reset_frame (s : State) :
    s.clearOutputs.idleBus.resetFile.resetAlarm.resetIrq =
      { s with
        file := s.clearOutputs.idleBus.resetFile.file, op := .none, ap := 0#16, phase := .awaitingHighByte
        alarmDeadline := if s.cfg.resetDisarmsAlarm then none else s.alarmDeadline
        irq := if s.cfg.resetReevalIrq then irqLevel s.cfg s.clearOutputs.idleBus.resetFile.file else s.irq
        resp := none, diag := s.clearOutputs.idleBus.resetFile.diag
        timer := if s.cfg.resetDisarmsAlarm = true ∧ s.alarmDeadline ≠ none then some .cancel else none } :=
  State.resetBody_frame _

/-! ## The clock offset and the phase -/

/-- Settles O49: no effect but CREATE's has the offset among the fields it touches. -/
theorem onlyCreateWritesTheOffset : Obligations.OnlyCreateWritesTheOffset := by
  intro i s t h
  cases exec_effect h with
  | created => exact ⟨fun _ => rfl, fun hi => absurd rfl hi⟩
  | rejected hb c => exact ⟨fun hi => (by subst hi; cases hb), fun _ => rfl⟩
  | moved hb op ap hp => exact ⟨fun hi => (by subst hi; cases hb), fun _ => rfl⟩
  | read => exact ⟨fun hi => (by cases hi), fun _ => rfl⟩
  | stored d hp hop => exact ⟨fun hi => (by cases hi), fun _ => by rw [State.afterData_frame]⟩
  | reset => exact ⟨fun hi => (by cases hi), fun _ => by rw [State.reset_frame]⟩
  | expired => exact ⟨fun hi => (by cases hi), fun _ => rfl⟩

/-- Settles O50: the phase moves by a `PhaseStep`, or RESET or CREATE sets it. -/
theorem phaseMovesOnlyByItsEvents : Obligations.PhaseMovesOnlyByItsEvents := by
  intro i s t h hne
  cases exec_effect h with
  | rejected hb c => exact absurd rfl hne
  | moved hb op ap hp =>
    generalize s.phase = p at hp hne
    cases hp with
    | kept => exact absurd rfl hne
    | high d => exact .inl ⟨d, rfl, rfl, rfl⟩
    | low d => exact .inr (.inl ⟨d, rfl, rfl, rfl⟩)
    | back => exact .inr (.inr ⟨.inl rfl, rfl⟩)
  | read => exact absurd rfl hne
  | stored d hp hop => exact absurd (by rw [State.afterData_frame]) hne
  | reset => exact .inr (.inr ⟨.inr (.inl rfl), by rw [State.reset_frame]⟩)
  | expired => exact absurd rfl hne
  | created => exact .inr (.inr ⟨.inr (.inr rfl), rfl⟩)

/-! ## The register file -/

/-- A stored byte changes the byte at `ap` and, at an address that triggers ALARM_REEVAL, the alarm-event byte. -/
theorem State.afterData_read_of_ne {s : State} (hw : s.file.wf) (d : Byte) {a : Nat} (ha : a ≠ s.ap.toNat)
    (he : touchesAlarm s.cfg s.ap.toNat = true → a ≠ alarmEventAddr s.cfg) :
    (s.afterData d).file.read a = s.file.read a := by
  have hstored : (s.stored d).file.read a = s.file.read a := (State.stored_read hw d a).trans (if_neg ha)
  obtain hf | ⟨htouch, -, -, hf⟩ := State.afterStore_file (s.stored d) s.ap.toNat
  · exact (congrArg (Memory.read · a) hf).trans hstored
  · refine (congrArg (Memory.read · a) hf).trans (Eq.trans ?_ hstored)
    exact (State.alarmFire_read (s := s.stored d) (Memory.wf_write hw _ _) a).trans (if_neg (he htouch))

/-- Settles O51: the window bytes of a read, the two bytes of a store, the alarm-event byte of EXPIRE, and nothing
else. -/
theorem registerFileChangesOnlyThere : Obligations.RegisterFileChangesOnlyThere := by
  intro i s t a hw hreset hcreate h hne
  cases exec_effect h with
  | rejected hb c => exact absurd rfl hne
  | moved hb op ap hp => exact absurd rfl hne
  | read =>
    have hwin : s.cfg.clkAddr ≤ a ∧ a < s.cfg.clkAddr + 7 := by
      by_contra hout
      exact hne (State.readFile_read_of_not_window hw hout)
    have hap : s.cfg.clkAddr ≤ s.ap.toNat ∧ s.ap.toNat < s.cfg.clkAddr + 7 := by
      by_contra hout
      exact hne (congrArg (Memory.read · a) (State.readFile_of_not_window hout))
    exact .inl ⟨rfl, hap.1, hap.2, hwin⟩
  | stored d hp hop =>
    refine .inr (.inl ⟨d, rfl, hp, hop, ?_⟩)
    by_contra hnot
    obtain ⟨hap, hevent⟩ := not_or.mp hnot
    exact hne (State.afterData_read_of_ne hw _ hap fun htouch he => hevent ⟨(touchesAlarm_iff _ _).mp htouch, he⟩)
  | expired =>
    refine .inr (.inr ⟨rfl, ?_⟩)
    by_contra hnot
    exact hne ((State.alarmFire_read (s := s.clearOutputs.spend) hw a).trans (if_neg hnot))
  | reset => exact absurd rfl hreset
  | created => exact absurd rfl hcreate

/-! ## The alarm deadline and its notifications -/

/-- The deadline and the notification after a stored byte: those of ALARM_REEVAL where the address triggers it. -/
theorem State.afterStore_alarm (s : State) (a : Nat) :
    (touchesAlarm s.cfg a = true ∧ (s.afterStore a).alarmDeadline = s.alarmReeval.alarmDeadline ∧
      (s.afterStore a).timer = s.alarmReeval.timer) ∨
    ((s.afterStore a).alarmDeadline = s.alarmDeadline ∧ (s.afterStore a).timer = s.timer) := by
  rw [State.afterStore]
  by_cases ha : touchesAlarm s.cfg a = true
  · rw [if_pos ha]
    exact .inl ⟨ha, by split <;> rfl, by split <;> rfl⟩
  · rw [if_neg ha]
    exact .inr ⟨by split <;> rfl, by split <;> rfl⟩

/-- ALARM_REEVAL drops the deadline or arms it a whole number of seconds ahead, and notifies accordingly (R170, R102).
-/
theorem State.alarmReeval_deadline (s : State) :
    (s.alarmReeval.alarmDeadline = none ∧ s.alarmReeval.timer = s.disarm.timer) ∨
    (∃ k, 1 ≤ k ∧ k < 2 ^ s.cfg.alarmArithBits ∧ s.alarmReeval.alarmDeadline = some (s.now + k * nsPerSec) ∧
      s.alarmReeval.timer = some (.arm (s.now + k * nsPerSec))) := by
  obtain ⟨-, h⟩ | ⟨-, -, h⟩ | ⟨-, hk, h⟩ := s.alarmReeval_cases <;> rw [h]
  case inl => exact .inl ⟨rfl, rfl⟩
  case inr.inl => exact .inl ⟨rfl, rfl⟩
  case inr.inr => exact .inr ⟨_, hk, s.targetSeconds_lt, rfl, rfl⟩

/-- A data byte keeps the deadline, drops it or arms it, and notifies accordingly. -/
theorem State.afterData_deadline (s : State) (d : Byte) :
    ((s.afterData d).alarmDeadline = s.alarmDeadline ∧ (s.afterData d).timer = none) ∨
    (touchesAlarm s.cfg s.ap.toNat = true ∧ (s.afterData d).alarmDeadline = none ∧
      (s.afterData d).timer = if s.alarmDeadline = none then none else some .cancel) ∨
    (touchesAlarm s.cfg s.ap.toNat = true ∧ ∃ k, 1 ≤ k ∧ k < 2 ^ s.cfg.alarmArithBits ∧
      (s.afterData d).alarmDeadline = some (s.now + k * nsPerSec) ∧
      (s.afterData d).timer = some (.arm (s.now + k * nsPerSec))) := by
  obtain ⟨htouch, hdeadline, htimer⟩ | hkept := State.afterStore_alarm (s.stored d) s.ap.toNat
  · obtain ⟨hnone, hnote⟩ | ⟨k, hk, hlt, hsome, hnote⟩ := State.alarmReeval_deadline (s.stored d)
    · exact .inr (.inl ⟨htouch, hdeadline.trans hnone, htimer.trans (hnote.trans (State.stored_disarm_timer s d))⟩)
    · exact .inr (.inr ⟨htouch, k, hk, hlt, hdeadline.trans hsome, htimer.trans hnote⟩)
  · exact .inl hkept

/-- Settles O53: the three host events leave no deadline or keep it, and a data byte is `State.afterData_deadline`. -/
theorem deadlineChangesOnlyByItsEvents : Obligations.DeadlineChangesOnlyByItsEvents := by
  intro i s t h hne
  cases exec_effect h with
  | rejected hb c => exact absurd rfl hne
  | moved hb op ap hp => exact absurd rfl hne
  | read => exact absurd rfl hne
  | stored d hp hop =>
    refine .inr (.inr (.inr ⟨d, rfl, hp, hop, ?_⟩))
    obtain ⟨hkept, -⟩ | ⟨htouch, hnone, -⟩ | ⟨htouch, k, hk, hlt, hsome, -⟩ :=
      State.afterData_deadline s (BitVec.ofNat 8 d)
    · exact absurd hkept hne
    · exact ⟨(touchesAlarm_iff _ _).mp htouch, .inl hnone⟩
    · exact ⟨(touchesAlarm_iff _ _).mp htouch, .inr ⟨k, hk, hlt, hsome⟩⟩
  | reset =>
    rw [State.reset_frame] at hne ⊢
    dsimp only at hne ⊢
    split at hne
    · next hdisarms => exact .inr (.inl ⟨rfl, if_pos hdisarms⟩)
    · exact absurd rfl hne
  | expired => exact .inl ⟨rfl, rfl⟩
  | created => exact .inr (.inr (.inl ⟨rfl, rfl⟩))

/-- From `s` to `t` the notification tells what became of the deadline (R102): `arm` a new one, `cancel` a pending one
dropped, none that it was kept. -/
structure NotesDeadline (s t : State) : Prop where
  arm : ∀ d, t.timer = some (.arm d) → t.alarmDeadline = some d
  cancel : t.timer = some .cancel → t.alarmDeadline = none ∧ s.alarmDeadline ≠ none
  kept : t.timer = none → t.alarmDeadline = s.alarmDeadline

theorem NotesDeadline.of_kept {s t : State} (hd : t.alarmDeadline = s.alarmDeadline) (hn : t.timer = none) :
    NotesDeadline s t where
  arm := fun d h => by cases hn.symm.trans h
  cancel := fun h => by cases hn.symm.trans h
  kept := fun _ => hd

/-- A dropped deadline is notified exactly when it was pending. -/
theorem NotesDeadline.of_dropped {s t : State} (hd : t.alarmDeadline = none)
    (hn : t.timer = if s.alarmDeadline = none then none else some .cancel) : NotesDeadline s t := by
  by_cases hp : s.alarmDeadline = none
  · rw [if_pos hp] at hn
    exact .of_kept (hd.trans hp.symm) hn
  · rw [if_neg hp] at hn
    exact ⟨fun d h => (by cases hn.symm.trans h), fun _ => ⟨hd, hp⟩, fun h => (by cases hn.symm.trans h)⟩

theorem NotesDeadline.of_armed {s t : State} {d : Nat} (hd : t.alarmDeadline = some d) (hn : t.timer = some (.arm d)) :
    NotesDeadline s t where
  arm := fun d' h => by cases hn.symm.trans h; exact hd
  cancel := fun h => by cases hn.symm.trans h
  kept := fun h => by cases hn.symm.trans h

theorem State.afterData_notesDeadline (s : State) (d : Byte) : NotesDeadline s (s.afterData d) := by
  obtain ⟨hd, hn⟩ | ⟨-, hd, hn⟩ | ⟨-, k, -, -, hd, hn⟩ := s.afterData_deadline d
  · exact .of_kept hd hn
  · exact .of_dropped hd hn
  · exact .of_armed hd hn

/-- RESET cancels a pending alarm and says so, or keeps it, by `P_RESET_DISARMS_ALARM` (D16). -/
theorem State.reset_notesDeadline (s : State) :
    NotesDeadline s s.clearOutputs.idleBus.resetFile.resetAlarm.resetIrq := by
  rw [State.reset_frame]
  by_cases hdisarms : s.cfg.resetDisarmsAlarm = true
  · refine .of_dropped (if_pos hdisarms) ?_
    simp only [hdisarms, true_and, ite_not]
  · refine .of_kept (if_neg hdisarms) (if_neg ?_)
    rintro ⟨hd, -⟩
    exact hdisarms hd

/-- Every event but CREATE and EXPIRE notifies what it did to the deadline. -/
theorem Effect.notesDeadline {s t : State} {i : Instr} (h : Effect s i t) (hc : i ≠ .create) (he : i ≠ .expire) :
    NotesDeadline s t := by
  cases h with
  | rejected hb c => exact .of_kept rfl rfl
  | moved hb op ap hp => exact .of_kept rfl rfl
  | read => exact .of_kept rfl rfl
  | stored d hp hop => exact s.afterData_notesDeadline _
  | reset => exact s.reset_notesDeadline
  | expired => exact absurd rfl he
  | created => exact absurd rfl hc

/-- Settles O54: EXPIRE drops the deadline silently, and every other event is `Effect.notesDeadline`. -/
theorem timerNotesMirrorTheDeadline : Obligations.TimerNotesMirrorTheDeadline := by
  intro i s t hc h
  by_cases he : i = .expire
  · subst he
    obtain ⟨-, _, -, -, rfl⟩ := execExpire_next h
    exact ⟨fun d hd => (by cases hd), fun hn => (by cases hn), fun _ hne => absurd rfl hne, fun _ => ⟨rfl, rfl⟩⟩
  · obtain ⟨harm, hcancel, hkept⟩ := (exec_effect h).notesDeadline hc he
    exact ⟨harm, hcancel, fun hn _ => hkept hn, fun hi => absurd hi he⟩

/-! ## The diagnostic stream -/

/-- In a well-formed configuration nothing but a rejection adds a record: RESET stays in bounds. -/
theorem Effect.diag {s t : State} {i : Instr} (h : Effect s i t) (hc : s.cfg.wellFormed = true)
    (hn : s.snapshot.length = s.cfg.snapLen) (hi : i ≠ .create) : (∃ c, t = s.rejected c) ∨ t.diag = s.diag := by
  cases h with
  | rejected hb c => exact .inl ⟨c, rfl⟩
  | moved hb op ap hp => exact .inr rfl
  | read => exact .inr rfl
  | stored d hp hop => exact .inr (by rw [State.afterData_frame])
  | reset =>
    rw [State.reset_frame, State.resetFile_of_wellFormed (s := s.clearOutputs.idleBus) hc hn]
    exact .inr rfl
  | expired => exact .inr rfl
  | created => exact absurd rfl hi

/-- Settles O48: a rejection adds its record (`State.rejected`), and a performed event adds none. -/
theorem oneDiagnosticRecordPerRejection : Obligations.OneDiagnosticRecordPerRejection := by
  intro i s t hc hn hi h
  obtain ⟨c, rfl⟩ | hperformed := exec_rejectedOrPerformed h
  · exact .inl ⟨c, rfl, rfl⟩
  · obtain ⟨c, rfl⟩ | hdiag := (exec_effect h).diag hc hn hi
    · exact .inl ⟨c, rfl, rfl⟩
    · exact .inr ⟨hperformed, hdiag⟩

end Sys2Proof.Machine
end

section
/-! No bus event reads the alarm deadline (10_state.md section 2): with another deadline in the old state each branch of
each handler is taken again. -/

namespace Sys2Proof.Machine

/-- The state with another deadline and nothing else changed. -/
def State.withDeadline (s : State) (other : Option Nat) : State := { s with alarmDeadline := other }

/-- `r` is what an event that took `s` to `t` answers when the deadline of `s` is `other`: the same but for the deadline
and the notification, and the deadline kept in both runs or the same in both. -/
def AgreesButDeadline (s t : State) (other : Option Nat) (r : Result) : Prop :=
  ∃ u : State, r = .next u ∧ u = { t with alarmDeadline := u.alarmDeadline, timer := u.timer } ∧
    (u.alarmDeadline = t.alarmDeadline ∨ (u.alarmDeadline = other ∧ t.alarmDeadline = s.alarmDeadline))

/-- An event that keeps the deadline keeps the other one too. -/
theorem AgreesButDeadline.of_kept {s t : State} {other : Option Nat} {r : Result}
    (hr : r = .next (t.withDeadline other)) (hd : t.alarmDeadline = s.alarmDeadline) : AgreesButDeadline s t other r :=
  ⟨t.withDeadline other, hr, rfl, .inr ⟨rfl, hd⟩⟩

/-- ALARM_REEVAL decides by the registers and the clock, and overwrites the deadline: only its notification tells the
old one. -/
theorem State.alarmReeval_withDeadline (s : State) (other : Option Nat) :
    (s.withDeadline other).alarmReeval = { s.alarmReeval with timer := (s.withDeadline other).alarmReeval.timer } := by
  cases he : s.alarmEnabled with
  | false =>
    rw [State.alarmReeval_of_disabled he, State.alarmReeval_of_disabled (s := s.withDeadline other) he]
    rfl
  | true =>
    by_cases ht : s.targetSeconds = 0
    · rw [State.alarmReeval_of_due he ht, State.alarmReeval_of_due (s := s.withDeadline other) he ht]
      rfl
    · rw [State.alarmReeval_of_ahead he ht, State.alarmReeval_of_ahead (s := s.withDeadline other) he ht]
      rfl

/-- The side effects of a stored byte overwrite the deadline or keep it, whatever it was. -/
theorem State.afterStore_withDeadline (s : State) (other : Option Nat) (a : Nat) :
    (∃ note, (s.withDeadline other).afterStore a = { s.afterStore a with timer := note }) ∨
    ((s.withDeadline other).afterStore a = (s.afterStore a).withDeadline other ∧
      (s.afterStore a).alarmDeadline = s.alarmDeadline) := by
  by_cases ha : touchesAlarm s.cfg a = true
  · refine .inl ⟨(s.withDeadline other).alarmReeval.timer, ?_⟩
    rw [State.afterStore, State.afterStore, if_pos ha,
      if_pos (c := touchesAlarm (s.withDeadline other).cfg a = true) ha, State.alarmReeval_withDeadline]
    dsimp only
    split <;> rfl
  · refine .inr ?_
    rw [State.afterStore, State.afterStore, if_neg ha,
      if_neg (c := touchesAlarm (s.withDeadline other).cfg a = true) ha]
    by_cases hi : touchesIrq s.cfg a = true
    · rw [if_pos hi, if_pos (c := touchesIrq (s.withDeadline other).cfg a = true) hi]
      exact ⟨rfl, rfl⟩
    · rw [if_neg hi, if_neg (c := touchesIrq (s.withDeadline other).cfg a = true) hi]
      exact ⟨rfl, rfl⟩

theorem State.afterData_agrees (s : State) (other : Option Nat) (d : Byte) :
    AgreesButDeadline s (s.afterData d) other (.next ((s.withDeadline other).afterData d)) := by
  have hdef : (s.withDeadline other).afterData d =
      { ((s.stored d).withDeadline other).afterStore s.ap.toNat with resp := some (.ok 0x00#8) } := rfl
  obtain ⟨note, h⟩ | ⟨h, hkept⟩ := State.afterStore_withDeadline (s.stored d) other s.ap.toNat <;> rw [hdef, h]
  · exact ⟨_, rfl, rfl, .inl rfl⟩
  · exact .of_kept rfl hkept

theorem execSr_agrees {s t : State} (other : Option Nat) (h : execSr s = .next t) :
    AgreesButDeadline s t other (execSr (s.withDeadline other)) := by
  obtain ⟨hl, ⟨hop, rfl⟩ | ⟨hop, rfl⟩⟩ := execSr_next h
  · exact .of_kept (execSr_of_idle (s := s.withDeadline other) hl hop) rfl
  · exact .of_kept (execSr_of_busy (s := s.withDeadline other) hl hop) rfl

theorem execSw_agrees {s t : State} (other : Option Nat) (h : execSw s = .next t) :
    AgreesButDeadline s t other (execSw (s.withDeadline other)) := by
  obtain ⟨hl, ⟨hop, rfl⟩ | ⟨hop, rfl⟩⟩ := execSw_next h
  · exact .of_kept (execSw_of_idle (s := s.withDeadline other) hl hop) rfl
  · exact .of_kept (execSw_of_busy (s := s.withDeadline other) hl hop) rfl

theorem execRx_agrees {s t : State} (other : Option Nat) (h : execRx s = .next t) :
    AgreesButDeadline s t other (execRx (s.withDeadline other)) := by
  obtain ⟨hl, ⟨hop, rfl⟩ | ⟨hop, hp, rfl⟩ | ⟨hop, hp, ha, rfl⟩ | ⟨hop, hp, ha, rfl⟩⟩ := execRx_next h
  · exact .of_kept (execRx_of_not_reading (s := s.withDeadline other) hl hop) rfl
  · exact .of_kept (execRx_of_no_address (s := s.withDeadline other) hl hop hp) rfl
  · exact .of_kept (execRx_of_out_of_range (s := s.withDeadline other) hl hop hp ha) rfl
  · exact .of_kept (execRx_of_in_range (s := s.withDeadline other) hl hop hp ha) rfl

theorem execTx_agrees {d : Nat} {s t : State} (other : Option Nat) (h : execTx d s = .next t) :
    AgreesButDeadline s t other (execTx d (s.withDeadline other)) := by
  obtain ⟨hl, hd, ⟨hp, rfl⟩ | ⟨hp, rfl⟩ | ⟨hp, hop, rfl⟩ | ⟨hp, hop, ha, rfl⟩ | ⟨hp, hop, ha, rfl⟩⟩ := execTx_next h
  · exact .of_kept (execTx_of_high (s := s.withDeadline other) hl hd hp) rfl
  · exact .of_kept (execTx_of_low (s := s.withDeadline other) hl hd hp) rfl
  · exact .of_kept (execTx_of_not_writing (s := s.withDeadline other) hl hd hp hop) rfl
  · exact .of_kept (execTx_of_out_of_range (s := s.withDeadline other) hl hd hp hop ha) rfl
  · rw [execTx_of_in_range (s := s.withDeadline other) hl hd hp hop ha]
    exact s.afterData_agrees other _

/-- Settles O55, event by event: the branch taken is taken again, and only a data byte overwrites the deadline. -/
theorem noBusEventReadsTheDeadline : Obligations.NoBusEventReadsTheDeadline := by
  intro i s t other hb h
  show AgreesButDeadline s t other (exec i (s.withDeadline other))
  cases i with
  | sr => exact execSr_agrees other h
  | sw => exact execSw_agrees other h
  | swa =>
    obtain ⟨hl, rfl⟩ := execSwa_next h
    exact .of_kept (execSwa_of_live (s := s.withDeadline other) hl) rfl
  | fin =>
    obtain ⟨hl, rfl⟩ := execFin_next h
    exact .of_kept (execFin_of_live (s := s.withDeadline other) hl) rfl
  | nak =>
    obtain ⟨hl, rfl⟩ := execNak_next h
    exact .of_kept (execNak_of_live (s := s.withDeadline other) hl) rfl
  | rx => exact execRx_agrees other h
  | tx d => exact execTx_agrees other h
  | reset | expire | create => cases hb

end Sys2Proof.Machine
end

section
/-! The register file as memory (20_memory.md R61 to R64), and the response word (30_encoding.md R94). -/

namespace Sys2Proof.Machine

/-! ## The primitives at and above REG_SIZE -/

theorem State.memRead_of_ge {s : State} {a : Nat} (h : s.cfg.regSize ≤ a) :
    s.memRead a = (oorRead, s.reportOutOfRange a) := if_pos h

theorem State.memWrite_of_ge {s : State} {a : Nat} (h : s.cfg.regSize ≤ a) (v : Byte) :
    s.memWrite a v = s.reportOutOfRange a := if_pos h

/-- Settles O56: one equation per side of the bound, and reading after a write. -/
theorem primitivesAreBoundsChecked : Obligations.PrimitivesAreBoundsChecked := by
  refine fun s a v => ⟨fun h => ?outside, fun h => ?inside⟩
  case outside => exact ⟨State.memRead_of_ge h, State.memWrite_of_ge h v⟩
  case inside =>
    exact ⟨State.memRead_of_lt h, s.file.write a v, State.memWrite_of_lt h v, fun hw => Memory.read_write hw a v⟩

/-! ## Clearing byte by byte -/

/-- Zeroing the first byte of a range and clearing the rest is clearing the range. -/
theorem Memory.clear_write_zero {m : Memory} (hw : m.wf) {lo hi : Nat} (h : lo < hi) :
    (m.write lo 0x00#8).clear (lo + 1) hi = m.clear lo hi := by
  refine Memory.ext_read (Memory.wf_clear (Memory.wf_write hw _ _) _ _) (Memory.wf_clear hw _ _) fun a => ?_
  rw [Memory.read_clear, Memory.read_clear, Memory.read_write hw]
  by_cases ha : a = lo
  · rw [if_pos ha, ite_self, if_pos (by omega)]
  · rw [if_neg ha]
    exact if_congr (by omega) rfl rfl

theorem Memory.clear_of_ge {m : Memory} (hw : m.wf) {lo hi : Nat} (h : hi ≤ lo) : m.clear lo hi = m :=
  Memory.ext_read (Memory.wf_clear hw _ _) hw fun a => by rw [Memory.read_clear, if_neg (by omega)]

/-- R63, R64: `clear` of one more byte is MemWrite of zero at its first address, and `clear` of the rest. -/
theorem State.clear_succ {s : State} (hw : s.file.wf) (lo n : Nat) :
    s.clear lo (n + 1) = (s.memWrite lo 0x00#8).clear (lo + 1) n := by
  by_cases h : lo < s.cfg.regSize
  · rw [State.memWrite_of_lt h, State.clear, State.clear]
    dsimp only
    rw [Memory.clear_write_zero hw (by omega), Nat.max_eq_right h.le, Nat.max_eq_right h, Nat.add_assoc,
      Nat.add_comm 1 n]
  · have hge : s.cfg.regSize ≤ lo := Nat.not_lt.mp h
    rw [State.memWrite_of_ge hge, State.clear, State.clear, State.reportOutOfRange_file, State.reportOutOfRange_cfg,
      State.reportOutOfRange_diag, Memory.clear_of_ge hw (by omega), Memory.clear_of_ge hw (by omega),
      Nat.max_eq_left hge, Nat.max_eq_left (by omega), Nat.add_sub_cancel_left, Nat.add_sub_cancel_left,
      List.range'_succ, List.map_cons, List.append_assoc]
    rfl

theorem State.memWrite_wf {s : State} (hw : s.file.wf) (a : Nat) (v : Byte) : (s.memWrite a v).file.wf := by
  rw [State.memWrite]
  split
  · exact hw
  · exact Memory.wf_write hw a v

/-- Settles O57, by induction on the length of the range. -/
theorem clearIsFillWithZero : Obligations.ClearIsFillWithZero := by
  intro s lo n hw
  induction n generalizing s lo with
  | zero =>
    rw [State.fill, State.clear, Nat.add_zero, Memory.clear_of_ge hw (Nat.min_le_left _ _),
      Nat.sub_eq_zero_of_le (Nat.le_max_left _ _), List.range'_zero, List.map_nil, List.append_nil]
  | succ n ih => rw [State.fill, State.clear_succ hw, ih _ _ (State.memWrite_wf hw _ _)]

/-! ## The response word -/

/-- R94: the three fields of a response word as one number. -/
theorem Response.word_toNat (r : Response) :
    r.word.toNat = 4096 * r.status.toNat + 256 * r.causeField.toNat + r.byteField.toNat := by
  rw [Response.word, BitVec.toNat_append, ← Nat.shiftLeft_add_eq_or_of_lt (BitVec.isLt _), BitVec.toNat_append,
    ← Nat.shiftLeft_add_eq_or_of_lt (BitVec.isLt _), Nat.shiftLeft_eq, Nat.shiftLeft_eq]
  omega

theorem Response.ok_word (b : Byte) : (Response.ok b).word.toNat = b.toNat := by
  rw [Response.word_toNat]
  exact Nat.zero_add _

theorem Response.rej_word (c : Cause) : (Response.rej c).word.toNat = 4096 + 256 * c.code := by
  rw [Response.word_toNat]
  cases c <;> rfl

theorem Cause.code_bounds (c : Cause) : 1 ≤ c.code ∧ c.code ≤ 9 := by
  cases c <;> decide

/-- The nine causes in the order of their codes (R201). -/
def causesByCode : List Cause :=
  [.startReadBusy, .startWriteBusy, .asyncUnsupported, .nack, .rxNotReading, .rxNoAddress, .rxOutOfRange, .txNotWriting,
    .txOutOfRange]

theorem causesByCode_code (c : Cause) : causesByCode[c.code - 1]? = some c := by
  cases c <;> rfl

theorem Cause.code_injective {c c' : Cause} (h : c.code = c'.code) : c = c' :=
  Option.some.inj ((causesByCode_code c).symm.trans (h ▸ causesByCode_code c'))

/-- Settles O45: the fields as numbers tell the status, and then the byte or the cause, of a word. -/
theorem responseWordHasItsFields : Obligations.ResponseWordHasItsFields := by
  refine ⟨Response.ok_word, fun c => ⟨Response.rej_word c, c.code_bounds⟩, fun r r' h => ?injective⟩
  case injective =>
    have hnat : r.word.toNat = r'.word.toNat := congrArg BitVec.toNat h
    cases r with
    | ok b =>
      have hb := b.isLt
      cases r' with
      | ok b' =>
        rw [Response.ok_word, Response.ok_word] at hnat
        exact congrArg Response.ok (BitVec.eq_of_toNat_eq hnat)
      | rej c' =>
        rw [Response.ok_word, Response.rej_word] at hnat
        omega
    | rej c =>
      cases r' with
      | ok b' =>
        have hb := b'.isLt
        rw [Response.rej_word, Response.ok_word] at hnat
        omega
      | rej c' =>
        rw [Response.rej_word, Response.rej_word] at hnat
        exact congrArg Response.rej (Cause.code_injective (by omega))

end Sys2Proof.Machine
end

section
/-! Sequences of bus events (30_encoding.md R99, R101; 95_test_vectors.md S1; 70_reset_and_hazards.md section 5): the
address phase, the block write, the write and read back, and the bytes that follow a RESET. -/

namespace Sys2Proof.Machine

/-! ## Running a list of events -/

theorem execAll_cons {i : Instr} {is : List Instr} {s t : State} (h : exec i s = .next t) :
    execAll (i :: is) s = execAll is t := by
  rw [execAll, h]

/-- A list that completes hands its last state to the events after it. -/
theorem execAll_append {is js : List Instr} {s t : State} (h : execAll is s = .next t) :
    execAll (is ++ js) s = execAll js t := by
  induction is generalizing s with
  | nil =>
    cases h
    rfl
  | cons i is ih =>
    cases hi : exec i s with
    | next u =>
      rw [execAll_cons hi] at h
      rw [List.cons_append, execAll_cons hi, ih h]
    | fault r => cases r
    | refused r =>
      rw [execAll, hi] at h
      cases h

/-! ## The address phase -/

/-- `s` with the high address byte taken (R133). -/
def State.halfAddressed (s : State) (h : Nat) : State :=
  { s with ap := BitVec.ofNat 16 (256 * h), phase := .awaitingLowByte, resp := some (.ok 0x00#8), timer := none }

/-- `s` with both address bytes taken (R134). -/
def State.addressed (s : State) (h l : Nat) : State :=
  { s with ap := BitVec.ofNat 16 (256 * h + l), phase := .addressComplete, resp := some (.ok 0x00#8), timer := none }

theorem State.addressed_ap_toNat (s : State) {h l : Nat} (hh : h < 256) (hl : l < 256) :
    (s.addressed h l).ap.toNat = 256 * h + l :=
  (BitVec.toNat_ofNat _ _).trans (Nat.mod_eq_of_lt (by omega))

theorem execTx_first_byte {s : State} (hlive : s.Live) (hp : s.phase = .awaitingHighByte) (hap : s.ap = 0#16) {h : Nat}
    (hh : h < 256) : execTx h s = .next (s.halfAddressed h) := by
  rw [execTx_of_high hlive hh hp, withHighByte_eq_ofNat _ hh, hap]
  rfl

theorem execTx_second_byte {s : State} (hlive : s.Live) {h l : Nat} (hh : h < 256) (hl : l < 256) :
    execTx l (s.halfAddressed h) = .next (s.addressed h l) := by
  have hhigh : (s.halfAddressed h).ap.toNat = 256 * h := (BitVec.toNat_ofNat _ _).trans (Nat.mod_eq_of_lt (by omega))
  rw [execTx_of_low (s := s.halfAddressed h) hlive hl rfl, withLowByte_eq_ofNat _ hl, hhigh,
    Nat.mul_div_cancel_left h (by decide)]
  rfl

/-- `s` after an accepted SW (R111). -/
def State.startedWrite (s : State) : State :=
  { s with op := .writing, ap := 0#16, phase := .awaitingHighByte, resp := some (.ok 0x00#8), timer := none }

/-- Settles O18: SW clears `ap`, and the two bytes then fill it, high byte first. -/
theorem addressPhaseIsHighByteFirst : Obligations.AddressPhaseIsHighByteFirst := by
  refine ⟨fun s h l hlive hop hh hl => ?forms, fun a => ?reached⟩
  case forms =>
    refine ⟨s.startedWrite, s.startedWrite.halfAddressed h, s.startedWrite.addressed h l, execSw_of_idle hlive hop,
      execTx_first_byte (s := s.startedWrite) hlive rfl rfl hh,
      execTx_second_byte (s := s.startedWrite) hlive hh hl, ?_, rfl, rfl, rfl⟩
    rw [State.addressed_ap_toNat _ hh hl, ← Nat.shiftLeft_add_eq_or_of_lt hl, Nat.shiftLeft_eq, mul_comm]
  case reached =>
    have ha := a.isLt
    have hlow : a.toNat % 256 < 256 := Nat.mod_lt _ (by decide)
    refine ⟨a.toNat / 256, a.toNat % 256, by omega, hlow, ?_⟩
    rw [← Nat.shiftLeft_add_eq_or_of_lt hlow, Nat.shiftLeft_eq]
    exact (Nat.div_add_mod' a.toNat 256).symm

/-- R99 on an idle bus, as one list of events. -/
theorem execAll_address_phase {s : State} (hlive : s.Live) (hop : s.op = .none) {h l : Nat} (hh : h < 256)
    (hl : l < 256) : execAll [.sw, .tx h, .tx l] s = .next (s.startedWrite.addressed h l) := by
  have hsw : exec .sw s = .next s.startedWrite := execSw_of_idle hlive hop
  rw [execAll_cons hsw,
    execAll_cons (i := .tx h) (execTx_first_byte (s := s.startedWrite) hlive rfl rfl hh),
    execAll_cons (i := .tx l) (execTx_second_byte (s := s.startedWrite) hlive hh hl), execAll]

/-! ## The block write -/

/-- Data bytes over addresses without side effect, in bounds: they lie in order, and `ap` has passed them. The pointer
is a natural here, because after the last byte it may be 2^16. -/
theorem execAll_data_bytes {s : State} {a : Nat} {bytes : List Byte} (hlive : s.Live) (hp : s.phase = .addressComplete)
    (hop : s.op = .writing) (hap : s.ap = BitVec.ofNat 16 a) (hin : a + bytes.length ≤ s.cfg.regSize)
    (hsize : s.cfg.regSize ≤ 65536)
    (hplain : ∀ x, a ≤ x → x < a + bytes.length → touchesAlarm s.cfg x = false ∧ touchesIrq s.cfg x = false)
    (hresp : s.resp = some (.ok 0x00#8)) (htimer : s.timer = none) :
    execAll (bytes.map fun b => .tx b.toNat) s =
      .next { s with file := s.file.writeBytes a bytes, ap := BitVec.ofNat 16 (a + bytes.length) } := by
  induction bytes generalizing s a with
  | nil =>
    rw [List.length_nil, Nat.add_zero, ← hap]
    rfl
  | cons b bytes ih =>
    rw [List.length_cons] at hin hplain
    have hnat : s.ap.toNat = a := by rw [hap, BitVec.toNat_ofNat, Nat.mod_eq_of_lt (by omega)]
    obtain ⟨halarm, hirq⟩ := hplain a (le_refl a) (by omega)
    have hstep : exec (.tx b.toNat) s =
        .next { s with file := s.file.write a b, ap := BitVec.ofNat 16 (a + 1) } := by
      refine (execTx_of_in_range hlive b.isLt hp hop (by omega)).trans ?_
      rw [State.afterData_of_plain (by rwa [hnat]) (by rwa [hnat]), hnat, BitVec.ofNat_toNat, BitVec.setWidth_eq,
        ← hresp, ← htimer]
    have hrest := ih (s := { s with file := s.file.write a b, ap := BitVec.ofNat 16 (a + 1) }) (a := a + 1) hlive hp hop
      rfl (by dsimp only; omega) hsize (fun x h1 h2 => hplain x (by omega) (by omega)) hresp htimer
    rw [List.map_cons, execAll_cons hstep, hrest, List.length_cons, Nat.add_assoc, Nat.add_comm 1 bytes.length]
    rfl

/-- An address is its two bytes (R101). -/
theorem addr_bytes (a : Addr) : 256 * (a.extractLsb' 8 8).toNat + (a.extractLsb' 0 8).toNat = a.toNat := by
  have := a.isLt
  rw [BitVec.extractLsb'_toNat, BitVec.extractLsb'_toNat, Nat.shiftRight_eq_div_pow, Nat.shiftRight_zero]
  omega

/-- Settles O22: the address phase, the data bytes, FIN. -/
theorem blockWriteStoresItsBytes : Obligations.BlockWriteStoresItsBytes := by
  intro s a bytes hlive hw hop hin hsize hplain
  refine ⟨s.file.writeBytes a.toNat bytes, ?_, fun x => Memory.read_writeBytes hw _ _ _⟩
  have haddress := execAll_address_phase hlive hop (a.extractLsb' 8 8).isLt (a.extractLsb' 0 8).isLt
  have hdata := execAll_data_bytes (s := s.startedWrite.addressed (a.extractLsb' 8 8).toNat (a.extractLsb' 0 8).toNat)
    (a := a.toNat) (bytes := bytes) hlive rfl rfl (congrArg (BitVec.ofNat 16) (addr_bytes a)) hin hsize
    (fun x h1 h2 => by
      obtain ⟨hctrl, halarm, hmask, hevent⟩ := hplain x h1 h2
      exact ⟨touchesAlarm_eq_false hctrl halarm, touchesIrq_eq_false fun _ => ⟨hmask, hevent⟩⟩) rfl rfl
  show execAll (addressPhase a ++ bytes.map (fun b => .tx b.toNat) ++ [.fin]) s = _
  rw [List.append_assoc]
  exact (execAll_append haddress).trans
    ((execAll_append hdata).trans (execAll_cons (i := .fin) (execFin_of_live hlive)))

/-! ## Write and read back -/

/-- The byte a data write has stored is at `ap` still when its side effects are done: the alarm-event byte is
elsewhere. -/
theorem State.afterData_read_ap {s : State} (hc : s.cfg.wellFormed = true) (hw : s.file.wf) (d : Byte) :
    (s.afterData d).file.read s.ap.toNat = d := by
  have hstored : (s.stored d).file.read s.ap.toNat = d := (State.stored_read hw d _).trans (if_pos rfl)
  obtain hf | ⟨htouch, -, -, hf⟩ := State.afterStore_file (s.stored d) s.ap.toNat
  · exact (congrArg (Memory.read · s.ap.toNat) hf).trans hstored
  · refine (congrArg (Memory.read · s.ap.toNat) hf).trans (Eq.trans ?_ hstored)
    exact (State.alarmFire_read (s := s.stored d) (Memory.wf_write hw _ _) _).trans
      (if_neg (alarmEventAddr_ne_of_touchesAlarm hc htouch).symm)

theorem State.afterData_live {s : State} (h : s.Live) (d : Byte) : (s.afterData d).Live := by
  rw [State.afterData_frame]
  exact h

/-- One byte written in a transaction of its own: it is stored, whatever its address does, and the bus is idle again. -/
theorem execAll_write_byte {s : State} (hlive : s.Live) (hc : s.cfg.wellFormed = true) (hw : s.file.wf)
    (hop : s.op = .none) {h l d : Nat} (hh : h < 256) (hl : l < 256) (hd : d < 256)
    (hin : 256 * h + l < s.cfg.regSize) :
    ∃ t : State, execAll [.sw, .tx h, .tx l, .tx d, .fin] s = .next t ∧ t.Live ∧ t.op = .none ∧ t.cfg = s.cfg ∧
      t.file.read (256 * h + l) = BitVec.ofNat 8 d := by
  have hap := s.startedWrite.addressed_ap_toNat hh hl
  have hstore : execTx d (s.startedWrite.addressed h l) =
      .next ((s.startedWrite.addressed h l).afterData (BitVec.ofNat 8 d)) :=
    execTx_of_in_range (s := s.startedWrite.addressed h l) hlive hd rfl rfl (by rw [hap]; exact hin)
  have hlive' := State.afterData_live (s := s.startedWrite.addressed h l) hlive (BitVec.ofNat 8 d)
  refine ⟨{ (s.startedWrite.addressed h l).afterData (BitVec.ofNat 8 d) with
    op := .none, resp := some (.ok 0x00#8), timer := none }, ?_, hlive', rfl, ?_, ?_⟩
  · exact (execAll_append (js := [.tx d, .fin]) (execAll_address_phase hlive hop hh hl)).trans
      ((execAll_cons (i := .tx d) hstore).trans (execAll_cons (i := .fin) (execFin_of_live hlive')))
  · show ((s.startedWrite.addressed h l).afterData (BitVec.ofNat 8 d)).cfg = s.cfg
    rw [State.afterData_frame]
    rfl
  · rw [← hap]
    exact State.afterData_read_ap (s := s.startedWrite.addressed h l) hc hw _

/-- One byte read in a transaction of its own, outside the live-clock window: the stored byte, and the file unchanged.
-/
theorem execAll_read_byte {s : State} (hlive : s.Live) (hop : s.op = .none) {h l : Nat} (hh : h < 256) (hl : l < 256)
    (hin : 256 * h + l < s.cfg.regSize) (hwin : ¬ (s.cfg.clkAddr ≤ 256 * h + l ∧ 256 * h + l < s.cfg.clkAddr + 7)) :
    ∃ t : State, execAll [.sw, .tx h, .tx l, .fin, .sr, .rx] s = .next t ∧
      t.resp = some (.ok (s.file.read (256 * h + l))) ∧ t.file = s.file := by
  have hap := s.startedWrite.addressed_ap_toNat hh hl
  have hfin := execFin_of_live (s := s.startedWrite.addressed h l) hlive
  have hsr := execSr_of_idle (s := { s.startedWrite.addressed h l with op := .none }) hlive rfl
  have hrx := byteOutReturnsStoredByte { s.startedWrite.addressed h l with op := .reading } hlive rfl rfl
    (by rw [hap]; exact hin) (by rw [hap]; exact hwin)
  refine ⟨_, (execAll_append (js := [.fin, .sr, .rx]) (execAll_address_phase hlive hop hh hl)).trans
    ((execAll_cons (i := .fin) hfin).trans ((execAll_cons (i := .sr) hsr).trans (execAll_cons hrx))), ?_, rfl⟩
  rw [hap]
  rfl

/-- Settles O23: a transaction that writes the byte, then one that reads it. -/
theorem writtenByteReadsBack : Obligations.WrittenByteReadsBack := by
  intro s h l d hlive hg hop hh hl hd hin hwin
  obtain ⟨t, hwrite, hlivet, hopt, hcfg, hread⟩ := execAll_write_byte hlive hg.config hg.file.1 hop hh hl hd hin
  obtain ⟨u, hreadback, hresp, hfile⟩ := execAll_read_byte hlivet hopt hh hl (by rwa [hcfg]) (by rwa [hcfg])
  refine ⟨u, (execAll_append hwrite).trans hreadback, ?_, ?_⟩
  · rw [hresp, hread]
  · rw [hfile, hread]

/-! ## Bytes after a RESET -/

/-- Settles O24: RESET leaves the bus idle with `ap` at 0, so two bytes are an address, and the third is no data. -/
theorem strayBytesAfterResetStoreNothing : Obligations.StrayBytesAfterResetStoreNothing := by
  intro s x y z hlive hx hy hz
  obtain ⟨t, hreset, hlivet, hop, hap, hp⟩ : ∃ t, execReset s = .next t ∧ t.Live ∧ t.op = .none ∧ t.ap = 0#16 ∧
      t.phase = .awaitingHighByte := by
    refine ⟨_, execReset_of_live hlive, ?_⟩
    rw [State.reset_frame]
    exact ⟨hlive, rfl, rfl, rfl⟩
  refine ⟨t, t.halfAddressed x, t.addressed x y, (t.addressed x y).rejected .txNotWriting, hreset,
    execTx_first_byte hlivet hp hap hx, execTx_second_byte hlivet hx hy, rfl, rfl,
    execTx_of_not_writing (s := t.addressed x y) hlivet hz rfl ?notWriting, rfl, rfl,
    t.addressed_ap_toNat hx hy, rfl, hop⟩
  case notWriting =>
    show t.op ≠ .writing
    rw [hop]
    decide

end Sys2Proof.Machine
end
